-- ==== Sys2Proof/Word.lean ====
section
/-! DEFINITION. The word types: a byte (00_scope.md R6: 8 bits) and the two-bit status word that
30_encoding.md R50 uses as table notation. -/

namespace Sys2Proof

/-- A byte: `BYTE_W` = 8 bits (00_scope.md R5, R6). -/
abbrev Byte := BitVec 8

/-- Format `STATUS`: bit 1 is `rx_ready`, bit 0 is `tx_ready` (30_encoding.md R50; a notation of the
table only, D25). -/
abbrev StatusWord := BitVec 2

end Sys2Proof
end

