-- ==== Sys2Proof/Config.lean ====
section
/-! DEFINITION. The implementation parameters (00_scope.md R5) and the free values. An `opaque` has
no body: nothing can be proved of its value, so a claim holds whatever it is. -/

namespace Sys2Proof

/-- What the environment does when a byte arrives while `rx_ready = 1` (42_on_interrupt.md R81). -/
inductive RxOverrun where
  /-- The environment never does this: the step is not enabled. -/
  | noMove
  /-- The new byte is lost. -/
  | keepOld
  /-- The old byte is lost. -/
  | replace
  /-- One of the two is lost, either one. -/
  | either
  deriving DecidableEq, Repr, Inhabited

/-- The stimulus notation of 30_encoding.md R58: which agent of 00_scope.md R8 is to move. -/
inductive Event where
  /-- `ISR`: the dispatcher is invoked, if `irq = 1`. -/
  | handler
  /-- A spurious `ISR`: the dispatcher is invoked whatever `irq` is (60_exceptions.md R101). -/
  | spurious
  /-- `RX(b)`: the receiver delivers byte `b`. -/
  | rxArrive (b : Byte)
  /-- `TXDONE`: the transmitter becomes ready again. -/
  | txDone
  /-- The foreground idles. -/
  | idle
  /-- `RESET`. -/
  | reset
  /-- The initialisation collaborators finish: launch (70_reset_and_hazards.md R111, R112). -/
  | launch
  deriving DecidableEq, Repr, Inhabited

namespace Config

/-- Number of cells of the receive buffer (00_scope.md R5). -/
def N : Nat := 64

/-- Number of cells of the transmit staging buffer (00_scope.md R5). -/
def TXCAP : Nat := 3

/-- The Enter byte. PRESUMED ASCII, as the spec itself does (30_encoding.md R52, D4; log entry 9). -/
def CR : Byte := 0x0D#8

/-- Second byte of the Enter response (R52, D4). -/
def LF : Byte := 0x0A#8

/-- The Backspace byte (R52: shown by the source). -/
def BS : Byte := 0x08#8

/-- The Delete byte (R52, D4). -/
def DEL : Byte := 0x7F#8

/-- The space of the erase sequence (R52, D4). -/
def SP : Byte := 0x20#8

/-- The null marker (R52, D4). -/
def NUL : Byte := 0x00#8

/-- Whether ENTER writes `NUL` at `rxbuf[idx]`: the spec's default (R5, D12; log entry 8). -/
def nulOnEnter : Bool := false

/-- OPEN parameter `RX_OVERRUN` (R5, D15; log entry 10). -/
opaque rxOverrun : RxOverrun

/-- FREE VALUE: under `RxOverrun.either`, whether the `n`-th draw replaces the old byte (R81; log
entry 10). -/
opaque overrunReplaces : Nat → Bool

/-- OPEN parameter `TX_READY_AT_LAUNCH` (R5, R28, D16; log entry 3). -/
opaque txReadyAtLaunch : Bool

/-- FREE VALUE: which agent moves at the `n`-th draw, where the script names none ("Any enabled step
may be taken next", R8; log entry 1). -/
opaque schedule : Nat → Event

end Config

end Sys2Proof
end

