-- ==== Sys2Proof/Machine/State.lean ====
section
/-! DEFINITION. The state of 10_state.md R10 as plain data, the reasons a step can stop, and the state
after reset (R28). -/

namespace Sys2Proof.Machine

/-- The two memory spaces of the block (20_memory.md R30); the third space, `RI`, is operations. -/
inductive Space where
  | rxbuf
  | txbuf
  deriving DecidableEq, Repr

/-- Why the machine stops. The block itself has no faults; these three are the only ones a model has
(60_exceptions.md R90), each a guard of the model, and safe: no run from reset reaches one. -/
inductive Fault where
  /-- Raised by `memRead`: no value was ever written to the cell (20_memory.md R43; log entry 5).
  Safe. -/
  | readUnwrittenCell (space : Space) (index : Nat)
  /-- Raised by RI.READ_RECEIVED_BYTE with `rx_ready = 0` (42_on_interrupt.md R77). Safe. -/
  | readWithoutByte
  /-- Raised by RI.WRITE_TRANSMIT_BYTE with `tx_ready = 0` (R78). Safe. -/
  | writeWhileBusy
  deriving DecidableEq, Repr

/-- Why the model gives a step no meaning. -/
inductive Refusal where
  /-- Raised by an arm of `exec` without a meaning. Safe. -/
  | notModelled (mnemonic : String)
  /-- Raised by the dispatcher when an interrupt is serviced while `rxie = 0`, before the
  initialisation contract holds (70_reset_and_hazards.md R118, U12). Safe. -/
  | serviceBeforeInitialisation
  deriving DecidableEq, Repr

/-- A memory space: (index, byte) pairs, indices strictly rising. An unlisted cell holds no value
(20_memory.md R43; log entry 5). -/
abbrev Memory := List Host.Cell

/-- The pair `RI.read_status()` returns (42_on_interrupt.md R76). -/
structure Status where
  rxReady : Bool
  txReady : Bool
  deriving DecidableEq, Repr

/-- The transients of one invocation (10_state.md R21). -/
structure Locals where
  /-- `s`, the sampled status pair. -/
  sample : Status
  /-- `c`, the byte read. -/
  c : Byte
  /-- `staged`. -/
  staged : Bool
  /-- `seq`, the response sequence. -/
  seq : List Byte
  deriving DecidableEq, Repr

/-- The transients when no invocation runs (DESIGN CHOICE, log entry 7). -/
def Locals.clear : Locals :=
  { sample := ⟨false, false⟩, c := 0x00#8, staged := false, seq := [] }

/-- The complete state of the system (10_state.md R10). -/
@[ext]
structure State where
  /-- `rxbuf[0..N-1]` (R11): the cells written so far. -/
  rxbuf : Memory
  /-- `idx`, the line index (R12). -/
  idx : Nat
  /-- `txbuf[0..2]` (R13): the cells written so far. -/
  txbuf : Memory
  /-- `txlen` (R14). -/
  txlen : Nat
  /-- `txcur` (R15). -/
  txcur : Nat
  /-- `txie`, the transmit-ready interrupt enable (R16). -/
  txie : Bool
  /-- `rx_ready` (R17). -/
  rxReady : Bool
  /-- `rx_data` (R18). What it holds while `rx_ready = 0` is unspecified there: log entries 4 and 19. -/
  rxData : Byte
  /-- `tx_ready` (R19). -/
  txReady : Bool
  /-- `rxie`, the receive-ready interrupt enable (R20). -/
  rxie : Bool
  /-- `txtrace`, the ghost observation, oldest byte first (00_scope.md R9). -/
  txtrace : List Byte
  /-- The transients of the running invocation (R21; log entry 7). -/
  loc : Locals
  /-- The model's own: the events still to come (30_encoding.md R58; log entry 1). -/
  script : List Event
  /-- The model's own: how many free values have been drawn (log entry 1). -/
  draws : Nat
  deriving DecidableEq, Repr

/-- `rxbuf <- v` (00_scope.md R7). -/
def State.setRxbuf (s : State) (v : Memory) : State := { s with rxbuf := v }

/-- `idx <- v` (00_scope.md R7). -/
def State.setIdx (s : State) (v : Nat) : State := { s with idx := v }

/-- `txbuf <- v` (00_scope.md R7). -/
def State.setTxbuf (s : State) (v : Memory) : State := { s with txbuf := v }

/-- `txlen <- v` (00_scope.md R7). -/
def State.setTxlen (s : State) (v : Nat) : State := { s with txlen := v }

/-- `txcur <- v` (00_scope.md R7). -/
def State.setTxcur (s : State) (v : Nat) : State := { s with txcur := v }

/-- `txie <- v` (00_scope.md R7). -/
def State.setTxie (s : State) (v : Bool) : State := { s with txie := v }

/-- `rxReady <- v` (00_scope.md R7). -/
def State.setRxReady (s : State) (v : Bool) : State := { s with rxReady := v }

/-- `rxData <- v` (00_scope.md R7). -/
def State.setRxData (s : State) (v : Byte) : State := { s with rxData := v }

/-- `txReady <- v` (00_scope.md R7). -/
def State.setTxReady (s : State) (v : Bool) : State := { s with txReady := v }

/-- `rxie <- v` (00_scope.md R7). -/
def State.setRxie (s : State) (v : Bool) : State := { s with rxie := v }

/-- `txtrace <- v` (00_scope.md R7). -/
def State.setTxtrace (s : State) (v : List Byte) : State := { s with txtrace := v }

/-- `loc <- v` (00_scope.md R7). -/
def State.setLoc (s : State) (v : Locals) : State := { s with loc := v }

/-- `script <- v` (00_scope.md R7). -/
def State.setScript (s : State) (v : List Event) : State := { s with script := v }

/-- `draws <- v` (00_scope.md R7). -/
def State.setDraws (s : State) (v : Nat) : State := { s with draws := v }

/-- The outcome of a step. -/
abbrev Result := Host.Outcome State Fault Refusal

/-- The reset state for a given value of `TX_READY_AT_LAUNCH` (10_state.md R28). `rx_data` is
unspecified there: DESIGN CHOICE 0x00, log entry 4. -/
def State.resetWith (txReadyAtLaunch : Bool) : State :=
  { rxbuf := [], idx := 0, txbuf := [], txlen := 0, txcur := 0, txie := false
    rxReady := false, rxData := 0x00#8, txReady := txReadyAtLaunch, rxie := false
    txtrace := [], loc := Locals.clear, script := [], draws := 0 }

/-- The machine right after reset (10_state.md R28, 70_reset_and_hazards.md R110). -/
def State.reset : State := State.resetWith Config.txReadyAtLaunch

end Sys2Proof.Machine
end

