-- ==== Sys2Proof/Machine/Environment.lean ====
section
/-! DEFINITION. The steps of the other agents (42_on_interrupt.md R81 to R83), reset and launch
(70_reset_and_hazards.md R110 to R112). -/

namespace Sys2Proof.Machine

/-- `ENV.rx_arrive(b)` for a given `RX_OVERRUN` policy (R81). Under `noMove` the step is not enabled
with `rx_ready = 1`, and nothing moves. Under `either` the free value decides. -/
def rxArriveWith (policy : RxOverrun) (b : Byte) (s : State) : Result :=
  if s.rxReady then
    match policy with
    | .noMove => .next s
    | .keepOld => .next s
    | .replace => .next (s.setRxData b)
    | .either =>
      .next ((s.setRxData (if Config.overrunReplaces s.draws then b else s.rxData)).setDraws
        (s.draws + 1))
  else .next ((s.setRxData b).setRxReady true)

/-- ENV.RX_ARRIVE (R81). -/
def execEnvRxArrive (b : Byte) (s : State) : Result := rxArriveWith Config.rxOverrun b s

/-- ENV.TX_DONE: `tx_ready <- 1` (R82). -/
def execEnvTxDone (s : State) : Result := .next (s.setTxReady true)

/-- FG.IDLE: changes no state (R83). -/
def execFgIdle (s : State) : Result := .next s

/-- RESET: every piece of the machine's state at its reset value (R110). What the outside still has in
store, the script and the count of free values drawn, is no state of the machine and stays. -/
def execReset (s : State) : Result :=
  .next ((State.reset.setScript s.script).setDraws s.draws)

/-- Every register is at the value that the spec states for reset (10_state.md R28). The cells of the
two memories and `rx_data` are unspecified there. -/
abbrev State.atReset (s : State) : Prop :=
  s.idx = 0 ∧ s.txlen = 0 ∧ s.txcur = 0 ∧ s.txie = false ∧ s.rxReady = false ∧
    s.txReady = Config.txReadyAtLaunch ∧ s.rxie = false ∧ s.txtrace = []

/-- Launch is "the reset state with `rxie = 1`" (R112), so it is reached from the reset state alone:
block at its reset values, no byte received, `tx_ready = TX_READY_AT_LAUNCH` (R111, R112; log entry
2). -/
def State.readyToLaunch (s : State) : Bool := decide s.atReset

/-- Launch: "receive-ready interrupt enabled (`rxie <- 1`)", the one item of the initialisation
contract that is state here (R111, R112). -/
def launch (s : State) : State := s.setRxie true

end Sys2Proof.Machine
end

