-- ==== Sys2Proof/Syntax.lean ====
section
/-! DEFINITION. The operations: one constructor per row of opcode_table.json (30_encoding.md R59). -/

namespace Sys2Proof

/-- The 17 operations of the opcode table. -/
inductive Instr where
  /-- ENTER, byte `CR` (40_rx_reaction.md R61). -/
  | enter
  /-- ERASE.BS, byte `BS` (R62). -/
  | eraseBs
  /-- ERASE.DEL, byte `DEL` (R62). -/
  | eraseDel
  /-- STORE of an OTHER byte (R63). -/
  | store (c : Byte)
  /-- RXREACT, the RX reaction (R60). -/
  | rxReact
  /-- TXDRAIN, the TX reaction (41_tx_drain.md R70, R71). -/
  | txDrain
  /-- ON_INTERRUPT, one dispatcher invocation (42_on_interrupt.md R75). -/
  | onInterrupt
  /-- STAGE of a response sequence (40_rx_reaction.md R64). -/
  | stage (seq : List Byte)
  /-- RI.READ_STATUS (42_on_interrupt.md R76). -/
  | riReadStatus
  /-- RI.READ_RECEIVED_BYTE (R77). -/
  | riReadReceivedByte
  /-- RI.WRITE_TRANSMIT_BYTE (R78). -/
  | riWriteTransmitByte (b : Byte)
  /-- RI.ENABLE_TRANSMIT_INTERRUPT (R79). -/
  | riEnableTransmitInterrupt
  /-- RI.DISABLE_TRANSMIT_INTERRUPT (R80). -/
  | riDisableTransmitInterrupt
  /-- ENV.RX_ARRIVE (R81). -/
  | envRxArrive (b : Byte)
  /-- ENV.TX_DONE (R82). -/
  | envTxDone
  /-- FG.IDLE (R83). -/
  | fgIdle
  /-- RESET (70_reset_and_hazards.md R110). -/
  | reset
  deriving DecidableEq, Repr

end Sys2Proof
end

