-- ==== Sys2Proof/WellFormed.lean ====
section
/-! DEFINITION. Which terms of `Instr` are instructions of the block. -/

namespace Sys2Proof

/-- STORE's operand is an OTHER byte (30_encoding.md R51, 40_rx_reaction.md R63); STAGE's operand has
one to `TXCAP` bytes (R64). Every other operand is unrestricted. -/
def Instr.wellFormed : Instr → Bool
  | .enter => true
  | .eraseBs => true
  | .eraseDel => true
  | .store c => c ≠ Config.CR && c ≠ Config.BS && c ≠ Config.DEL
  | .rxReact => true
  | .txDrain => true
  | .onInterrupt => true
  | .stage seq => 1 ≤ seq.length && seq.length ≤ Config.TXCAP
  | .riReadStatus => true
  | .riReadReceivedByte => true
  | .riWriteTransmitByte _ => true
  | .riEnableTransmitInterrupt => true
  | .riDisableTransmitInterrupt => true
  | .envRxArrive _ => true
  | .envTxDone => true
  | .fgIdle => true
  | .reset => true

end Sys2Proof
end

