-- ==== Sys2Proof/Decode.lean ====
section
/-! DEFINITION. The decoder and the encoder. A received byte selects ENTER, ERASE or STORE; the
sampled status pair selects the reactions; the other rows of the table have no bit pattern
(30_encoding.md R50 to R59). -/

namespace Sys2Proof

/-- The three byte classes (30_encoding.md R51). -/
inductive ByteClass where
  | enter
  | erase
  | other
  deriving DecidableEq, Repr

/-- `class(c)` (30_encoding.md R51): total, on the byte alone, all eight bits compared. -/
def classify (c : Byte) : ByteClass :=
  if c = Config.CR then .enter
  else if c = Config.BS ∨ c = Config.DEL then .erase
  else .other

/-- Format `RXBYTE`: the instruction a received byte is. Every byte is one (R50, R55). -/
def decodeByte (c : Byte) : Instr :=
  match classify c with
  | .enter => .enter
  | .erase => if c = Config.BS then .eraseBs else .eraseDel
  | .other => .store c

/-- Format `STATUS`: the reactions a status pair selects, in the order they run (R56; RX first, D7).
TXDRAIN has the further guard `txcur < txlen`, which is not in the word. -/
def decodeStatus (w : StatusWord) : List Instr :=
  (if w.getLsbD 1 then [.rxReact] else []) ++ (if w.getLsbD 0 then [.txDrain] else [])

/-- A word together with its format (R50: "two formats and no others"). -/
inductive Code where
  | rxByte (c : Byte)
  | status (w : StatusWord)
  deriving DecidableEq, Repr

/-- Why a word selects no instruction. -/
inductive DecodeError where
  /-- The status pair `00` selects no reaction (R56). -/
  | statusSelectsNothing
  deriving DecidableEq, Repr

/-- The (first) instruction a word selects. -/
def decode : Code → Except DecodeError Instr
  | .rxByte c => .ok (decodeByte c)
  | .status w =>
    match decodeStatus w with
    | i :: _ => .ok i
    | [] => .error .statusSelectsNothing

/-- A sequence of received bytes, one instruction per byte, no memory between bytes (R50, R57). -/
def decodeStream (bytes : List Byte) : List Instr := bytes.map decodeByte

/-- The byte of an instruction of format `RXBYTE` (R59). -/
def encodeByte : Instr → Option Byte
  | .enter => some Config.CR
  | .eraseBs => some Config.BS
  | .eraseDel => some Config.DEL
  | .store c => some c
  | .rxReact => none
  | .txDrain => none
  | .onInterrupt => none
  | .stage _ => none
  | .riReadStatus => none
  | .riReadReceivedByte => none
  | .riWriteTransmitByte _ => none
  | .riEnableTransmitInterrupt => none
  | .riDisableTransmitInterrupt => none
  | .envRxArrive _ => none
  | .envTxDone => none
  | .fgIdle => none
  | .reset => none

/-- The status word of a reaction, its ignored bit 0 (R59). -/
def encodeStatus : Instr → Option StatusWord
  | .rxReact => some 0b10#2
  | .txDrain => some 0b01#2
  | .enter => none
  | .eraseBs => none
  | .eraseDel => none
  | .store _ => none
  | .onInterrupt => none
  | .stage _ => none
  | .riReadStatus => none
  | .riReadReceivedByte => none
  | .riWriteTransmitByte _ => none
  | .riEnableTransmitInterrupt => none
  | .riDisableTransmitInterrupt => none
  | .envRxArrive _ => none
  | .envTxDone => none
  | .fgIdle => none
  | .reset => none

/-- The word of an instruction; `none` for the rows that no bit pattern selects (R59: "`match` and
`mask` null"). -/
def encode (i : Instr) : Option Code :=
  ((encodeByte i).map Code.rxByte).or ((encodeStatus i).map Code.status)

/-- The bytes of a sequence of `RXBYTE` instructions. -/
def encodeStream (is : List Instr) : List Byte := is.filterMap encodeByte

/-- A `mask`/`match` pair of the opcode table: a byte selects it when `(c & mask) == match` (R59). -/
structure Pattern where
  mask : Byte
  pattern : Byte
  deriving DecidableEq, Repr

/-- Whether a byte selects a pattern (R59). -/
def Pattern.selects (p : Pattern) (c : Byte) : Bool := c &&& p.mask == p.pattern

/-- Row ENTER (R59). -/
def enterPattern : Pattern := ⟨0xFF#8, 0x0D#8⟩

/-- Row ERASE.BS (R59). -/
def eraseBsPattern : Pattern := ⟨0xFF#8, 0x08#8⟩

/-- Row ERASE.DEL (R59). -/
def eraseDelPattern : Pattern := ⟨0xFF#8, 0x7F#8⟩

/-- Row STORE's `cover`: 14 pairs whose union is the 253 OTHER values (R59). -/
def storeCover : List Pattern :=
  [⟨0xF8#8, 0x00#8⟩, ⟨0xFF#8, 0x09#8⟩, ⟨0xFE#8, 0x0A#8⟩, ⟨0xFF#8, 0x0C#8⟩, ⟨0xFE#8, 0x0E#8⟩,
   ⟨0xF0#8, 0x10#8⟩, ⟨0xE0#8, 0x20#8⟩, ⟨0xE0#8, 0x40#8⟩, ⟨0xF0#8, 0x60#8⟩, ⟨0xF8#8, 0x70#8⟩,
   ⟨0xFC#8, 0x78#8⟩, ⟨0xFE#8, 0x7C#8⟩, ⟨0xFF#8, 0x7E#8⟩, ⟨0x80#8, 0x80#8⟩]

/-- Every byte pattern of the opcode table. -/
def bytePatterns : List Pattern :=
  enterPattern :: eraseBsPattern :: eraseDelPattern :: storeCover

/-- What the decoder reads from a word of the opcode table: a word of one byte is a received byte, a
word of one or two bits is a status pair, and nothing else is a word of this hardware (R50; log
entry 11). -/
def decodeTableWord (nbits w : Nat) : Option Instr :=
  if nbits = 8 then
    if w < 256 then some (decodeByte (BitVec.ofNat 8 w)) else none
  else if nbits = 1 ∨ nbits = 2 then
    if w < 4 then (decode (.status (BitVec.ofNat 2 w))).toOption else none
  else none

end Sys2Proof
end

