-- ==== Sys2Proof/Machine/Flags.lean ====
section
/-! DEFINITION. The conditions computed from flags, enables and indices (10_state.md R26, R27). -/

namespace Sys2Proof.Machine

/-- The interrupt request, a level and not a stored bit (60_exceptions.md R93). -/
def State.irq (s : State) : Bool := (s.rxReady && s.rxie) || (s.txReady && s.txie)

/-- A staged response has unsent bytes (10_state.md R15). -/
def State.pending (s : State) : Bool := decide (s.txcur < s.txlen)

/-- The line is empty: ERASE does nothing (40_rx_reaction.md R62). -/
def State.lineEmpty (s : State) : Bool := s.idx == 0

/-- There is room for one more byte: `idx < N-1`, the guard of STORE (R63). -/
def State.lineHasRoom (s : State) : Bool := decide (s.idx < Config.N - 1)

end Sys2Proof.Machine
end

