-- ==== Sys2Proof/Machine/Operands.lean ====
section
/-! DEFINITION. Operand assembly: the response sequences (30_encoding.md R53). -/

namespace Sys2Proof.Machine

/-- `SEQ_ENTER` (R53). -/
def seqEnter : List Byte := [Config.CR, Config.LF]

/-- `SEQ_ERASE`, the same for `BS` and `DEL` (R53). -/
def seqErase : List Byte := [Config.BS, Config.SP, Config.BS]

/-- `SEQ_ECHO(c)`: the received byte unchanged (R53). -/
def seqEcho (c : Byte) : List Byte := [c]

/-- The status pair as it is now, the operand of format `STATUS` (30_encoding.md R50, R56). -/
def State.status (s : State) : Status := ⟨s.rxReady, s.txReady⟩

/-- The pair as a word of the table: bit 1 `rx_ready`, bit 0 `tx_ready` (R50, D25). -/
def Status.word (p : Status) : StatusWord := BitVec.ofBool p.rxReady ++ BitVec.ofBool p.txReady

end Sys2Proof.Machine
end

