-- ==== Sys2Proof/Machine/Ops.lean ====
section
/-! DEFINITION. The shared operations: sequencing, the two memories (20_memory.md R30 to R35), entry
to and return from an invocation (60_exceptions.md R97 to R99). -/

namespace Sys2Proof.Machine

/-- Run the next statement of a pseudocode block on the state the first one left; a stop ends the
block (00_scope.md R7: "statements of one pseudocode block execute in the order written"). -/
def andThen (o : Result) (f : State → Result) : Result :=
  match o with
  | .next s => f s
  | .fault r => .fault r
  | .refused r => .refused r

/-- The value of one cell, if it has been written. -/
def Memory.read : Memory → Nat → Option Byte
  | [], _ => none
  | (b, v) :: rest, a => if a = b then some v else Memory.read rest a

/-- The memory with one cell written. Indices stay strictly rising. -/
def Memory.write : Memory → Nat → Byte → Memory
  | [], a, v => [(a, v)]
  | (b, w) :: rest, a, v =>
    if a < b then (a, v) :: (b, w) :: rest
    else if a = b then (a, v) :: rest
    else (b, w) :: Memory.write rest a v

/-- Indices strictly rising, from `lo` on, below `size`. -/
def Memory.wfFrom (size : Nat) : Nat → Memory → Bool
  | _, [] => true
  | lo, (a, _) :: rest => decide (lo ≤ a) && decide (a < size) && Memory.wfFrom size (a + 1) rest

/-- The canonical form: indices strictly rising, all inside the space. -/
def Memory.wf (size : Nat) (m : Memory) : Bool := Memory.wfFrom size 0 m

/-- The number of cells of a space (20_memory.md R30). -/
def Space.size : Space → Nat
  | .rxbuf => Config.N
  | .txbuf => Config.TXCAP

/-- The cells of a space. -/
def State.mem (s : State) : Space → Memory
  | .rxbuf => s.rxbuf
  | .txbuf => s.txbuf

/-- The state with the cells of a space replaced. -/
def State.setMem (s : State) (sp : Space) (m : Memory) : State :=
  match sp with
  | .rxbuf => s.setRxbuf m
  | .txbuf => s.setTxbuf m

/-- `MemRead(S, a, 1)` (00_scope.md R7): a cell that was never written has no value (20_memory.md
R43; log entry 5). A cell that the space does not have was never written. -/
def memRead (sp : Space) (a : Nat) (s : State) : Except Fault Byte :=
  match if a < sp.size then (s.mem sp).read a else none with
  | some v => .ok v
  | none => .error (.readUnwrittenCell sp a)

/-- `MemWrite(S, a, 1, v)` (00_scope.md R7). There is no bounds fault (20_memory.md R34, 60_exceptions.md
R90): a write to a cell that the space does not have, which no rule makes, changes nothing (DESIGN
CHOICE, log entry 16). -/
def memWrite (sp : Space) (a : Nat) (v : Byte) (s : State) : State :=
  if a < sp.size then s.setMem sp ((s.mem sp).write a v) else s

/-- `MemWrite` of consecutive cells from index `a` on, in ascending order (20_memory.md R33). -/
def memWriteSeq (sp : Space) : Nat → List Byte → State → State
  | _, [], s => s
  | a, v :: vs, s => memWriteSeq sp (a + 1) vs (memWrite sp a v s)

/-- Entry to the interrupt context: saves and restores nothing, and changes no state of 10_state.md
R10 (60_exceptions.md R98). The transients of the invocation start clear. -/
def enterHandler (s : State) : State := s.setLoc Locals.clear

/-- The end of the invocation (60_exceptions.md R99): nothing is restored; the transients are gone
(10_state.md R21). -/
def leaveHandler (s : State) : State := s.setLoc Locals.clear

end Sys2Proof.Machine
end

