-- ==== Sys2Proof/Machine/LineEdit.lean ====
section
/-! DEFINITION. ENTER, ERASE, STORE (40_rx_reaction.md R61 to R63). Each sets the transients `seq` and
`staged`; STAGE commits them (R60, R64). -/

namespace Sys2Proof.Machine

/-- `seq <- q; staged <- true`. -/
def respond (q : List Byte) (s : State) : State := s.setLoc { s.loc with seq := q, staged := true }

/-- ENTER for a given `NUL_ON_ENTER`: the marker goes to the old `rxbuf[idx]` (R61). -/
def enterWith (nulOnEnter : Bool) (s : State) : Result :=
  let s' := if nulOnEnter then memWrite .rxbuf s.idx Config.NUL s else s
  .next (respond seqEnter (s'.setIdx 0))

/-- ENTER (R61). -/
def execEnter (s : State) : Result := enterWith Config.nulOnEnter s

/-- ERASE, both arms; no cell is written (R62). -/
def erase (s : State) : Result :=
  if s.lineEmpty then .next s else .next (respond seqErase (s.setIdx (s.idx - 1)))

/-- ERASE.BS (R62). -/
def execEraseBs (s : State) : Result := erase s

/-- ERASE.DEL: "`BS` and `DEL` are treated identically" (R62). -/
def execEraseDel (s : State) : Result := erase s

/-- STORE, both arms: the write uses the old `idx` (R63). That a byte of another class is stored too is
log entry 16; no such term is well-formed. -/
def execStore (c : Byte) (s : State) : Result :=
  if s.lineHasRoom then
    let s' := memWrite .rxbuf s.idx c s
    .next (respond (seqEcho c) (s'.setIdx (s'.idx + 1)))
  else .next s

end Sys2Proof.Machine
end

