-- ==== Sys2Proof/Machine/RegisterInterface.lean ====
section
/-! DEFINITION. The five Register Interface operations (42_on_interrupt.md R76 to R80). A returned
value lands in the transient that the pseudocode assigns it to. Each runs also before initialisation,
with `rxie = 0`, where no source says what happens (70_reset_and_hazards.md R118; DESIGN CHOICE, log
entry 20). -/

namespace Sys2Proof.Machine

/-- RI.READ_STATUS: `s <- (rx_ready, tx_ready)`, no side effect (R76). -/
def execRiReadStatus (s : State) : Result :=
  .next (s.setLoc { s.loc with sample := s.status })

/-- RI.READ_RECEIVED_BYTE: `c <- rx_data`, `rx_ready <- 0`; with `rx_ready = 0` no source says what
the call returns, and it is a fault (R77; log entry 15). Afterwards `rx_ready = 0` and the value of
`rx_data` is unspecified (10_state.md R18); that it keeps the byte read is the model's own (DESIGN
CHOICE, log entry 19). -/
def execRiReadReceivedByte (s : State) : Result :=
  if s.rxReady then .next ((s.setLoc { s.loc with c := s.rxData }).setRxReady false)
  else .fault .readWithoutByte

/-- RI.WRITE_TRANSMIT_BYTE: `tx_ready <- 0`, the byte is appended to `txtrace`; with `tx_ready = 0` no
source says what the call does, and it is a fault (R78; log
entry 15). -/
def execRiWriteTransmitByte (b : Byte) (s : State) : Result :=
  if s.txReady then .next ((s.setTxReady false).setTxtrace (s.txtrace ++ [b]))
  else .fault .writeWhileBusy

/-- RI.ENABLE_TRANSMIT_INTERRUPT: `txie <- 1` (R79). -/
def execRiEnableTransmitInterrupt (s : State) : Result := .next (s.setTxie true)

/-- RI.DISABLE_TRANSMIT_INTERRUPT: `txie <- 0` (R80). -/
def execRiDisableTransmitInterrupt (s : State) : Result := .next (s.setTxie false)

end Sys2Proof.Machine
end

