-- ==== Sys2Proof/Machine/Staging.lean ====
section
/-! DEFINITION. STAGE, the micro-operation that commits a response (40_rx_reaction.md R64). -/

namespace Sys2Proof.Machine

/-- STAGE: cells `0 .. L-1`, then `txlen`, `txcur`, then the enable (R64; the order is D17). A pending
response is overwritten without a look (70_reset_and_hazards.md R113). -/
def execStage (seq : List Byte) (s : State) : Result :=
  let s' := memWriteSeq .txbuf 0 seq s
  execRiEnableTransmitInterrupt ((s'.setTxlen seq.length).setTxcur 0)

end Sys2Proof.Machine
end

