-- ==== Sys2Proof/Machine/RxReaction.lean ====
section
/-! DEFINITION. RXREACT, the RX reaction (40_rx_reaction.md R60). -/

namespace Sys2Proof.Machine

/-- `case class(c) of ...` (R60): the instruction the byte is (30_encoding.md R51, R54). -/
def runByte (c : Byte) (s : State) : Result :=
  match classify c with
  | .enter => execEnter s
  | .erase => if c = Config.BS then execEraseBs s else execEraseDel s
  | .other => execStore c s

/-- `RXREACT()`, its guard met (R60). -/
def rxReaction (s : State) : Result :=
  andThen (execRiReadReceivedByte s) fun s1 =>
  andThen (runByte s1.loc.c (s1.setLoc { s1.loc with staged := false })) fun s2 =>
    if s2.loc.staged then execStage s2.loc.seq s2 else .next s2

/-- RXREACT: performed if the status pair has `rx_ready = 1`, otherwise nothing (30_encoding.md R56).
Executed on its own, the pair is the one at that moment (DEDUCED, log entry 13). -/
def execRxReact (s : State) : Result := if s.rxReady then rxReaction s else .next s

end Sys2Proof.Machine
end

