-- ==== Sys2Proof/Machine/TxReaction.lean ====
section
/-! DEFINITION. TXDRAIN, the TX reaction (41_tx_drain.md R70, R71). -/

namespace Sys2Proof.Machine

/-- `TXDRAIN()`, its guard met (R71). -/
def txReaction (s : State) : Result :=
  match memRead .txbuf s.txcur s with
  | .error r => .fault r
  | .ok b =>
    andThen (execRiWriteTransmitByte b s) fun s1 =>
      let s2 := s1.setTxcur (s1.txcur + 1)
      if s2.txcur = s2.txlen then execRiDisableTransmitInterrupt s2 else .next s2

/-- TXDRAIN: performed if the status pair has `tx_ready = 1` and a byte is pending, otherwise nothing
at all (R70). Executed on its own, the pair is the one at that moment (DEDUCED, log entry 13). -/
def execTxDrain (s : State) : Result :=
  if s.txReady && s.pending then txReaction s else .next s

end Sys2Proof.Machine
end

