-- ==== Sys2Proof/Machine/OnInterrupt.lean ====
section
/-! DEFINITION. `on_interrupt` (42_on_interrupt.md R75). -/

namespace Sys2Proof.Machine

/-- ON_INTERRUPT (R75): one status read, the RX reaction, then the TX reaction; both guards test that
one sample, and the TX guard reads `txcur`, `txlen` as the RX reaction left them. -/
def execOnInterrupt (s : State) : Result :=
  andThen (execRiReadStatus (enterHandler s)) fun s1 =>
  andThen (if s1.loc.sample.rxReady then rxReaction s1 else .next s1) fun s2 =>
  andThen (if s2.loc.sample.txReady && s2.pending then txReaction s2 else .next s2) fun s3 =>
    .next (leaveHandler s3)

end Sys2Proof.Machine
end

