-- ==== Sys2Proof/Machine/Dispatch.lean ====
section
/-! DEFINITION. The meaning of every operation: one arm per constructor. A Register Interface operation
on its own runs also with `rxie = 0`, where 70_reset_and_hazards.md R118 says nothing (DESIGN CHOICE, log
entry 20); a service then is refused by the dispatcher (log entry 14). -/

namespace Sys2Proof.Machine

def exec (i : Instr) (s : State) : Host.Outcome State Fault Refusal :=
  match i with
  | .enter => Sys2Proof.Machine.execEnter s
  | .eraseBs => Sys2Proof.Machine.execEraseBs s
  | .eraseDel => Sys2Proof.Machine.execEraseDel s
  | .store c => Sys2Proof.Machine.execStore c s
  | .rxReact => Sys2Proof.Machine.execRxReact s
  | .txDrain => Sys2Proof.Machine.execTxDrain s
  | .onInterrupt => Sys2Proof.Machine.execOnInterrupt s
  | .stage seq => Sys2Proof.Machine.execStage seq s
  | .riReadStatus => Sys2Proof.Machine.execRiReadStatus s
  | .riReadReceivedByte => Sys2Proof.Machine.execRiReadReceivedByte s
  | .riWriteTransmitByte b => Sys2Proof.Machine.execRiWriteTransmitByte b s
  | .riEnableTransmitInterrupt => Sys2Proof.Machine.execRiEnableTransmitInterrupt s
  | .riDisableTransmitInterrupt => Sys2Proof.Machine.execRiDisableTransmitInterrupt s
  | .envRxArrive b => Sys2Proof.Machine.execEnvRxArrive b s
  | .envTxDone => Sys2Proof.Machine.execEnvTxDone s
  | .fgIdle => Sys2Proof.Machine.execFgIdle s
  | .reset => Sys2Proof.Machine.execReset s

end Sys2Proof.Machine
end

