-- ==== Sys2Proof/Machine/Agents.lean ====
section
/-! DEFINITION. The agents (00_scope.md R8): which event is next, whether its step is enabled, what it
does; and how a word is put where the next step runs it. -/

namespace Sys2Proof.Machine

/-- Whether an agent's step is enabled: the handler exactly when `irq = 1` (60_exceptions.md R93), a
spurious invocation from launch on (R101; log entry 12), an arrival unless the policy forbids the
overrun (42_on_interrupt.md R81), `tx_done` when `tx_ready = 0` (R82), idling and reset always (R83,
R110), launch from the reset state (R112). -/
def eventEnabled (e : Event) (s : State) : Bool :=
  match e with
  | .handler => s.irq
  | .spurious => s.rxie
  | .rxArrive _ => !(s.rxReady && Config.rxOverrun == .noMove)
  | .txDone => !s.txReady
  | .idle => true
  | .reset => true
  | .launch => s.readyToLaunch

/-- The dispatcher: `on_interrupt` exactly once and nothing else (60_exceptions.md R97). Before the
initialisation contract holds the spec gives a service no meaning (70_reset_and_hazards.md R118;
DEDUCED, log entry 14). -/
def dispatch (s : State) : Result :=
  if s.rxie then exec .onInterrupt s else .refused .serviceBeforeInitialisation

/-- The step of an agent that is enabled. -/
def act (e : Event) (s : State) : Result :=
  match e with
  | .handler => dispatch s
  | .spurious => dispatch s
  | .rxArrive b => exec (.envRxArrive b) s
  | .txDone => exec .envTxDone s
  | .idle => exec .fgIdle s
  | .reset => exec .reset s
  | .launch => .next (launch s)

/-- An agent whose step is not enabled does not move: the foreground, always enabled, idles instead
(42_on_interrupt.md R83; log entry 1). -/
def perform (e : Event) (s : State) : Result :=
  if eventEnabled e s then act e s else exec .fgIdle s

/-- The next event and the state without it: the script's head, or, where the script is empty, a free
value ("Any enabled step may be taken next", 00_scope.md R8; log entry 1). -/
def nextEvent (s : State) : Event × State :=
  match s.script with
  | e :: rest => (e, s.setScript rest)
  | [] => (Config.schedule s.draws, s.setDraws (s.draws + 1))

/-- A byte waits in `rx_data` and the handler is next; the transmitter is busy, so that the step runs
the byte's instruction and no TX reaction (log entry 2). -/
def State.withByte (s : State) (c : Byte) : State :=
  ((((s.setRxData c).setRxReady true).setRxie true).setTxReady false).setScript
    (.handler :: s.script)

/-- A response of one byte is pending, unless one is already. -/
def State.withPending (s : State) : State :=
  if s.pending && (memRead .txbuf s.txcur s).isOk then s.setTxie true
  else (((s.setTxbuf (s.txbuf.write 0 s.rxData)).setTxlen 1).setTxcur 0).setTxie true

/-- The status pair is `w` and the handler is next; for the pair `01` a byte is pending, which TXDRAIN
needs beside the pair (30_encoding.md R56; log entry 2). -/
def State.withStatus (s : State) (w : StatusWord) : State :=
  let s1 := if w == 0b01#2 then s.withPending else s
  (((s1.setRxReady (w.getLsbD 1)).setTxReady (w.getLsbD 0)).setRxie true).setScript
    (.handler :: s.script)

/-- A word of the opcode table placed where the next step runs it; a word that is none changes
nothing. -/
def placeTableWord (s : State) (nbits w : Nat) : State :=
  if nbits = 8 then s.withByte (BitVec.ofNat 8 w)
  else if nbits = 1 ∨ nbits = 2 then s.withStatus (BitVec.ofNat 2 w)
  else s

end Sys2Proof.Machine
end

