-- ==== Sys2Proof/Machine/Step.lean ====
section
/-! DEFINITION. One step: the next event's agent moves (00_scope.md R8). -/

namespace Sys2Proof.Machine

/-- One step of the system. -/
def step (s : State) : Host.Outcome State Fault Refusal :=
  perform (nextEvent s).1 (nextEvent s).2

/-- The word `w` of the opcode table placed so that the next step runs it (log entry 2). -/
def State.withFetchWord (s : State) (nbits w : Nat) : State := placeTableWord s nbits w

end Sys2Proof.Machine
end

