-- ==== Sys2Proof/Safety.lean ====
section
/-! DEFINITION. The terms that claims use: the invariants of 10_state.md R22, what is pending and what
has been emitted, the current line, and the line editor the block refines. -/

namespace Sys2Proof.Machine

/-- INV1 (10_state.md R22). -/
abbrev State.inv1 (s : State) : Prop := s.idx ≤ Config.N - 1

/-- INV2 (R22). -/
abbrev State.inv2 (s : State) : Prop := s.txcur ≤ s.txlen ∧ s.txlen ≤ Config.TXCAP

/-- INV3 (R22). -/
abbrev State.inv3 (s : State) : Prop := s.txie = true ↔ s.txcur < s.txlen

/-- INV4 (R22): every cell `txbuf[i]` with `i < txlen` has been written. -/
abbrev State.inv4 (s : State) : Prop := ∀ i, i < s.txlen → (s.txbuf.read i).isSome

/-- Both memories are in canonical form (log entry 5). -/
abbrev State.memoryWf (s : State) : Prop :=
  s.rxbuf.wf Config.N = true ∧ s.txbuf.wf Config.TXCAP = true

/-- The cells `rxbuf[0 .. idx-1]`, the current line (R11), have been written. -/
abbrev State.lineWritten (s : State) : Prop := ∀ i, i < s.idx → (s.rxbuf.read i).isSome

/-- Before launch the block is at its reset values (70_reset_and_hazards.md R111). -/
abbrev State.preLaunchAtReset (s : State) : Prop :=
  s.rxie = false → s.idx = 0 ∧ s.txlen = 0 ∧ s.txcur = 0 ∧ s.txie = false

/-- The invariant of every state between steps: INV1 to INV4 (R22), canonical memories, a written line,
the reset values before launch, and no transient left over (R21). -/
abbrev State.Inv (s : State) : Prop :=
  s.inv1 ∧ s.inv2 ∧ s.inv3 ∧ s.inv4 ∧ s.memoryWf ∧ s.lineWritten ∧ s.preLaunchAtReset ∧
    s.loc = Locals.clear

/-- The unsent bytes of the staged response, `txbuf[txcur .. txlen-1]` (10_state.md R15). -/
def State.pendingBytes (s : State) : List Byte :=
  ((List.range s.txlen).drop s.txcur).filterMap s.txbuf.read

/-- What has been sent followed by what is staged and unsent. -/
def State.emitted (s : State) : List Byte := s.txtrace ++ s.pendingBytes

/-- The current line, the cells `rxbuf[0 .. idx-1]` (10_state.md R11). -/
def State.line (s : State) : List Byte := (List.range s.idx).filterMap s.rxbuf.read

/-- `resp(b)` of 70_reset_and_hazards.md R114: the response of the arm that byte `b` takes at `idx`. -/
def response (idx : Nat) (b : Byte) : List Byte :=
  match classify b with
  | .enter => seqEnter
  | .erase => if idx = 0 then [] else seqErase
  | .other => if idx < Config.N - 1 then seqEcho b else []

/-- The line after byte `b` (40_rx_reaction.md R61 to R63): emptied, shortened, extended, or, in the
two silent drops, as it was. -/
def editLine (l : List Byte) (b : Byte) : List Byte :=
  match classify b with
  | .enter => []
  | .erase => l.dropLast
  | .other => if l.length < Config.N - 1 then l ++ [b] else l

/-- `idx` after byte `b` (40_rx_reaction.md R66). -/
def nextIdx (idx : Nat) (b : Byte) : Nat :=
  match classify b with
  | .enter => 0
  | .erase => idx - 1
  | .other => if idx < Config.N - 1 then idx + 1 else idx

/-- `resp(b1) ++ .. ++ resp(bn)`, each at the `idx` the earlier bytes left (70_reset_and_hazards.md
R114). -/
def responses : Nat → List Byte → List Byte
  | _, [] => []
  | idx, b :: bs => response idx b ++ responses (nextIdx idx b) bs

/-- Quiescent with every response drained (70_reset_and_hazards.md R120). -/
def State.restful (s : State) : Bool := !s.irq && s.txcur == s.txlen

/-- The storm of 70_reset_and_hazards.md R116: enabled, transmitter ready, nothing to send. -/
def State.storm (s : State) : Bool := s.txie && s.txReady && s.txcur == s.txlen

/-- The agents of the environment: they move between handler steps only (20_memory.md R38). -/
def isEnvironment : Event → Bool
  | .rxArrive _ => true
  | .txDone => true
  | .idle => true
  | .handler => false
  | .spurious => false
  | .reset => false
  | .launch => false

/-- The line editor seen from the wire: no buffers, no cursor, no interrupt enable. -/
structure Editor where
  launched : Bool
  idx : Nat
  waiting : Option Byte
  out : List Byte
  deriving DecidableEq, Repr

/-- What a state is as a line editor. -/
def State.editor (s : State) : Editor :=
  { launched := s.rxie, idx := s.idx
    waiting := if s.rxReady then some s.rxData else none
    out := s.emitted }

/-- A waiting byte is answered at once, when the handler runs. -/
def Editor.serve (e : Editor) : Editor :=
  if e.launched then
    match e.waiting with
    | none => e
    | some b =>
      { e with idx := nextIdx e.idx b, waiting := none, out := e.out ++ response e.idx b }
  else e

/-- The line editor's move at an event. -/
def Editor.move (ev : Event) (e : Editor) : Editor :=
  match ev with
  | .handler => e.serve
  | .spurious => e.serve
  | .rxArrive b => { e with waiting := some b }
  | .txDone => e
  | .idle => e
  | .reset => { launched := false, idx := 0, waiting := none, out := [] }
  | .launch => { e with launched := true }

/-- The pacing premise at one event (70_reset_and_hazards.md R114): (P-a) no arrival over an unread
byte; (P-b) a byte whose arm stages is served only when the earlier response is drained. A launch happens in the
reset state (R112) or not at all. -/
def Paced (e : Event) (s : State) : Prop :=
  match e with
  | .rxArrive _ => s.rxReady = false
  | .handler => s.rxReady = true → response s.idx s.rxData ≠ [] → s.txcur = s.txlen
  | .spurious => s.rxReady = true → response s.idx s.rxData ≠ [] → s.txcur = s.txlen
  | .txDone => True
  | .idle => True
  | .reset => True
  | .launch => s.rxie = true ∨ s.atReset

/-- A paced script for a string (30_encoding.md R58): each byte as `RX(b), ISR` and three times
`TXDONE, ISR`, enough for the longest response; an event whose step is not enabled passes. -/
def pacedScript (bytes : List Byte) : List Event :=
  bytes.flatMap fun b =>
    [.rxArrive b, .handler, .txDone, .handler, .txDone, .handler, .txDone]

/-- `k` times `TXDONE, ISR`. -/
def drainScript : Nat → List Event
  | 0 => []
  | k + 1 => .txDone :: .handler :: drainScript k

/-- Two states agree on all the block owns (10_state.md R11 to R16) and on `txtrace`. -/
abbrev SameBlock (s t : State) : Prop :=
  t.rxbuf = s.rxbuf ∧ t.idx = s.idx ∧ t.txbuf = s.txbuf ∧ t.txlen = s.txlen ∧
    t.txcur = s.txcur ∧ t.txie = s.txie ∧ t.txtrace = s.txtrace

/-- Two states agree on what the UART owns (10_state.md R17 to R20). That `rx_data` keeps its value
while `rx_ready = 0`, where R18 leaves it unspecified, is log entry 19. -/
abbrev SameUart (s t : State) : Prop :=
  t.rxReady = s.rxReady ∧ t.rxData = s.rxData ∧ t.txReady = s.txReady ∧ t.rxie = s.rxie

/-- Two states agree on the model's own fields. -/
abbrev SameModel (s t : State) : Prop := t.script = s.script ∧ t.draws = s.draws

/-- Instructions one after the other. -/
def runAll : List Instr → State → Result
  | [], s => .next s
  | i :: is, s => andThen (exec i s) (runAll is)

/-- `k` steps of the machine, ending at the first stop. -/
def runSteps : Nat → State → Result
  | 0, s => .next s
  | k + 1, s => andThen (step s) (runSteps k)

/-- The outcome with the receive buffer left out of the next state. -/
def withoutRxbuf (o : Result) : Result := andThen o fun s => .next (s.setRxbuf [])

end Sys2Proof.Machine
end

