-- ==== Sys2Proof/Certificates/Slice0/Obligations.lean ====
section
/-! DEFINITION. The statements for the provers. -/

open Sys2Proof Sys2Proof.Machine

/-! ### Encoding -/

/-- Words written out bit by bit from 30_encoding.md R59 and opcode_table.json, and what they are. The
numbers of CR, LF and DEL are the spec's choice (D4), log entry 9; the places of the two flags in a
status word are its choice D25, log entry 11; that the pair `11` selects the RX reaction first is its
choice D7; that `00` selects none is 30_encoding.md section 6. -/
def Obligations.WrittenOutWordsDecode : Prop :=
  decode (.rxByte 0b00001101#8) = .ok .enter ∧
  decode (.rxByte 0b00001000#8) = .ok .eraseBs ∧
  decode (.rxByte 0b01111111#8) = .ok .eraseDel ∧
  decode (.rxByte 0b00001010#8) = .ok (.store 0x0A#8) ∧
  decode (.rxByte 0b00000000#8) = .ok (.store 0x00#8) ∧
  decode (.rxByte 0b10001101#8) = .ok (.store 0x8D#8) ∧
  decode (.rxByte 0b01111110#8) = .ok (.store 0x7E#8) ∧
  decode (.rxByte 0b11111111#8) = .ok (.store 0xFF#8) ∧
  decodeStatus 0b10#2 = [.rxReact] ∧ decodeStatus 0b01#2 = [.txDrain] ∧
  decodeStatus 0b11#2 = [.rxReact, .txDrain] ∧
  decode (.status 0b00#2) = .error .statusSelectsNothing

/-- 30_encoding.md section 2: the classes are total on the byte, exclusive, and compare all eight
bits. -/
def Obligations.EveryByteHasItsClass : Prop :=
  ∀ c : Byte,
    (classify c = .enter ↔ c = Config.CR) ∧
    (classify c = .erase ↔ c = Config.BS ∨ c = Config.DEL) ∧
    (classify c = .other ↔ c ≠ Config.CR ∧ c ≠ Config.BS ∧ c ≠ Config.DEL) ∧
    (decodeByte c = .enter ↔ classify c = .enter) ∧
    (decodeByte c = .eraseBs ↔ c = Config.BS) ∧
    (decodeByte c = .eraseDel ↔ c = Config.DEL) ∧
    (decodeByte c = .store c ↔ classify c = .other)

/-- 30_encoding.md section 9: the opcode table's byte patterns are disjoint and cover all 256 bytes,
and the decoder reads the row that a byte selects. -/
def Obligations.OpcodeTableNeedsNoRowPriority : Prop :=
  ∀ c : Byte,
    (bytePatterns.filter (·.selects c)).length = 1 ∧
    (enterPattern.selects c = true ↔ decodeByte c = .enter) ∧
    (eraseBsPattern.selects c = true ↔ decodeByte c = .eraseBs) ∧
    (eraseDelPattern.selects c = true ↔ decodeByte c = .eraseDel) ∧
    ((storeCover.any (·.selects c)) = true ↔ decodeByte c = .store c)

/-- Decoding a stream of bytes gives back the well-formed byte instructions it was encoded from, and
encoding what any stream of bytes decodes to gives back the stream: one instruction per byte, no bit
dropped, no memory between bytes (30_encoding.md R50, R57). -/
def Obligations.ByteStreamsRoundTrip : Prop :=
  (∀ is : List Instr, (∀ i ∈ is, i.wellFormed = true ∧ (encodeByte i).isSome = true) →
    decodeStream (encodeStream is) = is) ∧
  (∀ bytes : List Byte,
    encodeStream (decodeStream bytes) = bytes ∧
    (decodeStream bytes).length = bytes.length ∧
    ∀ i ∈ decodeStream bytes, i.wellFormed = true)

/-- 30_encoding.md section 3: the response sequences, whichever spelling of Erase came in. The numbers
of CR, LF, SP are the spec's choice (D4), log entry 9. -/
def Obligations.ResponseSequences : Prop :=
  seqEnter = [0x0D#8, 0x0A#8] ∧ seqErase = [0x08#8, 0x20#8, 0x08#8] ∧
  (∀ c, seqEcho c = [c]) ∧
  (∀ idx b, classify b = .enter → response idx b = seqEnter) ∧
  (∀ idx b, classify b = .erase → 0 < idx → response idx b = seqErase) ∧
  (∀ idx b, classify b = .other → idx < Config.N - 1 → response idx b = seqEcho b)

/-! ### The RX arms -/

/-- ENTER with the parameter's default value `NUL_ON_ENTER = false` (40_rx_reaction.md section 2, D12,
log entry 8). That `rx_data` keeps its value also while `rx_ready = 0` is the model's choice, log
entry 19. -/
def Obligations.EnterEmptiesTheLine : Prop :=
  ∀ s : State, ∃ t, exec .enter s = .next t ∧
    t.idx = 0 ∧ t.loc.staged = true ∧ t.loc.seq = [Config.CR, Config.LF] ∧
    t.loc.c = s.loc.c ∧ t.loc.sample = s.loc.sample ∧
    (∀ a, t.rxbuf.read a = s.rxbuf.read a) ∧ (∀ a, t.txbuf.read a = s.txbuf.read a) ∧
    t.txlen = s.txlen ∧ t.txcur = s.txcur ∧ t.txie = s.txie ∧ t.txtrace = s.txtrace ∧
    SameUart s t ∧ SameModel s t

/-- ENTER with `NUL_ON_ENTER = true`: the one cell at the old `idx` receives `NUL` (40_rx_reaction.md
section 2, D12, log entry 8). That `rx_data` keeps its value also while `rx_ready = 0` is the model's
choice, log entry 19. -/
def Obligations.EnterWithNullMarkerWritesOneCell : Prop :=
  ∀ s : State, s.inv1 → ∃ t, enterWith true s = .next t ∧
    t.idx = 0 ∧ t.loc.staged = true ∧ t.loc.seq = [Config.CR, Config.LF] ∧
    t.loc.c = s.loc.c ∧ t.loc.sample = s.loc.sample ∧
    t.rxbuf.read s.idx = some Config.NUL ∧
    (∀ a, a ≠ s.idx → t.rxbuf.read a = s.rxbuf.read a) ∧
    (∀ a, t.txbuf.read a = s.txbuf.read a) ∧
    t.txlen = s.txlen ∧ t.txcur = s.txcur ∧ t.txie = s.txie ∧ t.txtrace = s.txtrace ∧
    SameUart s t ∧ SameModel s t

/-- Both spellings of ERASE, both arms (40_rx_reaction.md section 2; that the erased cell keeps its
value is D13). That `rx_data` keeps its value also while `rx_ready = 0` is the model's choice, log
entry 19. -/
def Obligations.EraseShortensTheLineOrDoesNothing : Prop :=
  ∀ (i : Instr) (s : State), i = .eraseBs ∨ i = .eraseDel →
    (s.idx = 0 → exec i s = .next s) ∧
    (0 < s.idx → ∃ t, exec i s = .next t ∧
      t.idx + 1 = s.idx ∧ t.loc.staged = true ∧ t.loc.seq = [Config.BS, Config.SP, Config.BS] ∧
      t.loc.c = s.loc.c ∧ t.loc.sample = s.loc.sample ∧
      (∀ a, t.rxbuf.read a = s.rxbuf.read a) ∧ (∀ a, t.txbuf.read a = s.txbuf.read a) ∧
      t.txlen = s.txlen ∧ t.txcur = s.txcur ∧ t.txie = s.txie ∧ t.txtrace = s.txtrace ∧
      SameUart s t ∧ SameModel s t)

/-- STORE, both arms (40_rx_reaction.md section 2): the cell written is the one at the old `idx`; as
many STOREs as there is room for are all stored. The spec's operand is an OTHER byte; that STORE of
CR, BS or DEL, which is not well-formed and no byte decodes to, does the same is the model's choice,
log entry 16. That `rx_data` keeps its value also while `rx_ready = 0` is the model's choice, log
entry 19. -/
def Obligations.StoreAppendsOrDrops : Prop :=
  ∀ (c : Byte) (s : State),
    (classify c = .other → decodeByte c = .store c) ∧
    (¬ s.idx < Config.N - 1 → exec (.store c) s = .next s) ∧
    (s.idx < Config.N - 1 → ∃ t, exec (.store c) s = .next t ∧
      t.idx = s.idx + 1 ∧ t.idx ≤ Config.N - 1 ∧
      t.loc.staged = true ∧ t.loc.seq = [c] ∧
      t.loc.c = s.loc.c ∧ t.loc.sample = s.loc.sample ∧
      t.rxbuf.read s.idx = some c ∧
      (∀ a, a ≠ s.idx → t.rxbuf.read a = s.rxbuf.read a) ∧
      (∀ a, t.txbuf.read a = s.txbuf.read a) ∧
      t.txlen = s.txlen ∧ t.txcur = s.txcur ∧ t.txie = s.txie ∧ t.txtrace = s.txtrace ∧
      SameUart s t ∧ SameModel s t) ∧
    (∀ cs : List Byte, s.idx + cs.length ≤ Config.N - 1 →
      ∃ t, runAll (cs.map Instr.store) s = .next t ∧ t.idx = s.idx + cs.length)

/-! ### The RX reaction and STAGE -/

/-- 40_rx_reaction.md R60: the reaction reads the byte, runs the instruction of its class, and stages
if that set `staged`; it completes, and the byte is consumed, whatever the class and `idx`. -/
def Obligations.RxReactionRunsTheDecodedByte : Prop :=
  ∀ s : State, s.rxReady = true →
    exec .rxReact s =
      andThen (exec .riReadReceivedByte s) (fun s1 =>
      andThen (exec (decodeByte s1.loc.c) (s1.setLoc { s1.loc with staged := false })) fun s2 =>
        if s2.loc.staged = true then exec (.stage s2.loc.seq) s2 else .next s2) ∧
    (classify s.rxData = .enter → decodeByte s.rxData = .enter) ∧
    (classify s.rxData = .erase →
      decodeByte s.rxData = .eraseBs ∨ decodeByte s.rxData = .eraseDel) ∧
    (classify s.rxData = .other → decodeByte s.rxData = .store s.rxData) ∧
    ∃ t, exec .rxReact s = .next t ∧ t.loc.c = s.rxData ∧ t.rxReady = false ∧
      t.txReady = s.txReady

/-- 40_rx_reaction.md R66: the whole effect of the RX reaction, arm by arm. -/
def Obligations.RxReactionArms : Prop :=
  ∀ s : State, s.rxReady = true → s.idx ≤ Config.N - 1 → ∃ t, exec .rxReact s = .next t ∧
    t.rxReady = false ∧ t.txReady = s.txReady ∧
    (classify s.rxData = .enter →
      t.idx = 0 ∧ t.txlen = 2 ∧ t.txcur = 0 ∧ t.txie = true ∧
      (∀ a, t.rxbuf.read a =
        if Config.nulOnEnter = true ∧ a = s.idx then some Config.NUL else s.rxbuf.read a) ∧
      t.txbuf.read 0 = some Config.CR ∧ t.txbuf.read 1 = some Config.LF ∧
      ∀ a, 2 ≤ a → t.txbuf.read a = s.txbuf.read a) ∧
    (classify s.rxData = .erase → 0 < s.idx →
      t.idx = s.idx - 1 ∧ t.txlen = 3 ∧ t.txcur = 0 ∧ t.txie = true ∧
      (∀ a, t.rxbuf.read a = s.rxbuf.read a) ∧
      t.txbuf.read 0 = some Config.BS ∧ t.txbuf.read 1 = some Config.SP ∧
      t.txbuf.read 2 = some Config.BS ∧ ∀ a, 3 ≤ a → t.txbuf.read a = s.txbuf.read a) ∧
    (classify s.rxData = .erase → s.idx = 0 → SameBlock s t) ∧
    (classify s.rxData = .other → s.idx < Config.N - 1 →
      t.idx = s.idx + 1 ∧ t.txlen = 1 ∧ t.txcur = 0 ∧ t.txie = true ∧
      (∀ a, t.rxbuf.read a = if a = s.idx then some s.rxData else s.rxbuf.read a) ∧
      t.txbuf.read 0 = some s.rxData ∧ ∀ a, 1 ≤ a → t.txbuf.read a = s.txbuf.read a) ∧
    (classify s.rxData = .other → s.idx = Config.N - 1 → SameBlock s t)

/-- What no arm of the RX reaction touches, and what it reads (40_rx_reaction.md section 1). That it does
nothing with `rx_ready = 0` is the model's reading, log entry 13; that `rx_data` keeps the byte after the
read, where 10_state.md R18 calls it unspecified, is the model's choice, log entry 19. -/
def Obligations.RxReactionFrame : Prop :=
  ∀ s : State, ∃ t, exec .rxReact s = .next t ∧
    t.txtrace = s.txtrace ∧ t.rxData = s.rxData ∧ t.txReady = s.txReady ∧ t.rxie = s.rxie ∧
    t.loc.sample = s.loc.sample ∧ SameModel s t ∧
    (s.rxReady = true → t.loc.c = s.rxData ∧ t.loc.staged = (response s.idx s.rxData != []))

/-- Without a byte there is no RX reaction (30_encoding.md section 6; log entry 13). -/
def Obligations.NoByteNoRxReaction : Prop :=
  ∀ s : State, s.rxReady = false → exec .rxReact s = .next s

/-- STAGE of one to three bytes (40_rx_reaction.md section 3; that cells beyond the length keep their
value is D13). That `rx_data` keeps its value also while `rx_ready = 0` is the model's choice, log
entry 19. -/
def Obligations.StageCommitsTheResponse : Prop :=
  ∀ (seq : List Byte) (s : State), (Instr.stage seq).wellFormed = true →
    ∃ t, exec (.stage seq) s = .next t ∧
      t.txlen = seq.length ∧ t.txcur = 0 ∧ t.txie = true ∧
      (∀ a, a < seq.length → t.txbuf.read a = seq[a]?) ∧
      (∀ a, seq.length ≤ a → t.txbuf.read a = s.txbuf.read a) ∧
      (∀ a, t.rxbuf.read a = s.rxbuf.read a) ∧ t.idx = s.idx ∧ t.txtrace = s.txtrace ∧
      t.loc = s.loc ∧ SameUart s t ∧ SameModel s t

/-- After STAGE exactly the new response is pending, whatever was pending before
(70_reset_and_hazards.md section 2, hazard H1). -/
def Obligations.StageDiscardsWhatWasPending : Prop :=
  ∀ (seq : List Byte) (s : State), (Instr.stage seq).wellFormed = true →
    ∃ t, exec (.stage seq) s = .next t ∧ t.pendingBytes = seq ∧ t.emitted = s.txtrace ++ seq

/-! ### The TX reaction -/

/-- 41_tx_drain.md, TXDRAIN: one byte is written, the cursor moves, and the last byte disables the
interrupt. That `rx_data` keeps its value also while `rx_ready = 0` is the model's choice, log entry
19. -/
def Obligations.TxDrainSendsOneByte : Prop :=
  ∀ (b : Byte) (s : State), s.txReady = true → s.txcur < s.txlen → s.txcur < Config.TXCAP →
    s.txbuf.read s.txcur = some b →
    ∃ t, exec .txDrain s = .next t ∧
      t.txtrace = s.txtrace ++ [b] ∧ t.txReady = false ∧ t.txcur = s.txcur + 1 ∧
      (t.txcur = t.txlen → t.txie = false) ∧ (t.txcur ≠ t.txlen → t.txie = s.txie) ∧
      t.txlen = s.txlen ∧ t.txcur ≤ t.txlen ∧
      (∀ a, t.txbuf.read a = s.txbuf.read a) ∧ (∀ a, t.rxbuf.read a = s.rxbuf.read a) ∧
      t.idx = s.idx ∧ t.rxReady = s.rxReady ∧ t.rxData = s.rxData ∧ t.rxie = s.rxie ∧
      t.loc = s.loc ∧ SameModel s t

/-- With the guard false the TX reaction does nothing at all; in particular it does not disable the
interrupt (41_tx_drain.md; log entry 13). -/
def Obligations.TxDrainGuardFalseDoesNothing : Prop :=
  ∀ s : State, s.txReady = false ∨ s.txlen ≤ s.txcur → exec .txDrain s = .next s

/-! ### `on_interrupt` -/

/-- 30_encoding.md section 6: an invocation samples the status pair; the RX reaction runs if the pair has
`rx_ready`, the TX reaction if it has `tx_ready` and a byte is pending after the RX reaction; neither
guard is an enable. The order of the two is the spec's choice D7. The pair as a word selects the same
reactions in the same order: the places of its bits are the spec's choice D25 (log entry 11), and that
TXDRAIN with nothing pending does nothing is the model's reading (log entry 13). -/
def Obligations.StatusPairSelectsTheReactions : Prop :=
  ∀ s : State,
    exec .onInterrupt s =
      andThen (exec .riReadStatus (s.setLoc Locals.clear)) (fun s1 =>
      andThen (if s.rxReady = true then exec .rxReact s1 else .next s1) fun s2 =>
      andThen (if s.txReady = true ∧ s2.txcur < s2.txlen then exec .txDrain s2 else .next s2)
        fun s3 => .next (s3.setLoc Locals.clear)) ∧
    decodeStatus s.status.word =
      (if s.rxReady = true then [.rxReact] else []) ++
        (if s.txReady = true then [.txDrain] else []) ∧
    exec .onInterrupt s =
      andThen (andThen (exec .riReadStatus (s.setLoc Locals.clear))
        (runAll (decodeStatus s.status.word))) fun t => .next (t.setLoc Locals.clear)

/-- Rows `rx_ready = 0` of 42_on_interrupt.md section 4. That `rx_data` keeps its value also while
`rx_ready = 0` is the model's choice, log entry 19. -/
def Obligations.InvocationWithoutByte : Prop :=
  ∀ s : State, s.rxReady = false →
    (s.txReady = false ∨ s.txlen ≤ s.txcur →
      exec .onInterrupt s = .next (s.setLoc Locals.clear)) ∧
    (∀ b, s.txReady = true → s.txcur < s.txlen → s.txcur < Config.TXCAP →
      s.txbuf.read s.txcur = some b →
      ∃ t, exec .onInterrupt s = .next t ∧
        t.txtrace = s.txtrace ++ [b] ∧ t.txReady = false ∧ t.txcur = s.txcur + 1 ∧
        (t.txcur = t.txlen → t.txie = false) ∧ (t.txcur ≠ t.txlen → t.txie = s.txie) ∧
        t.txlen = s.txlen ∧
        (∀ a, t.txbuf.read a = s.txbuf.read a) ∧ (∀ a, t.rxbuf.read a = s.rxbuf.read a) ∧
        t.idx = s.idx ∧ t.rxReady = s.rxReady ∧ t.rxData = s.rxData ∧ t.rxie = s.rxie ∧
        t.loc = Locals.clear ∧ SameModel s t)

/-- Rows `rx_ready = 1`, "does not stage", of 42_on_interrupt.md section 4: the byte is consumed and
the invocation is otherwise the one without it; the two silent drops (60_exceptions.md section 1). -/
def Obligations.SilentDropOnlyConsumesTheByte : Prop :=
  ∀ s : State, s.rxReady = true →
    (classify s.rxData = .erase ∧ s.idx = 0) ∨
      (classify s.rxData = .other ∧ Config.N - 1 ≤ s.idx) →
    exec .onInterrupt s = exec .onInterrupt (s.setRxReady false)

/-- Row `rx_ready = 1`, `tx_ready = 0`, "stages", of 42_on_interrupt.md section 4. That ENTER stores
nothing is the default of `NUL_ON_ENTER` (D12, log entry 8); that `rx_data` keeps the byte after the read
is the model's choice, log entry 19. -/
def Obligations.StagingInvocationTransmitterBusy : Prop :=
  ∀ s : State, s.rxReady = true → s.txReady = false → response s.idx s.rxData ≠ [] →
    ∃ t, exec .onInterrupt s = .next t ∧
      t.rxReady = false ∧ t.txReady = false ∧ t.txtrace = s.txtrace ∧
      t.pendingBytes = response s.idx s.rxData ∧ t.txcur = 0 ∧
      t.txlen = (response s.idx s.rxData).length ∧ t.txie = true ∧
      (∀ a, t.rxbuf.read a =
        if classify s.rxData = .other ∧ a = s.idx then some s.rxData else s.rxbuf.read a) ∧
      (∀ a, t.txbuf.read a =
        if a < (response s.idx s.rxData).length then (response s.idx s.rxData)[a]?
        else s.txbuf.read a) ∧
      t.idx = nextIdx s.idx s.rxData ∧ t.rxData = s.rxData ∧ t.rxie = s.rxie ∧
      t.loc = Locals.clear ∧ SameModel s t

/-- Row `rx_ready = 1`, `tx_ready = 1`, "stages", of 42_on_interrupt.md section 4: the first byte of
the response leaves in the invocation that received the byte, also over a pending response. This rests
on the order RX before TX, the spec's choice D7. That ENTER stores nothing is the default of
`NUL_ON_ENTER` (D12, log entry 8); that `rx_data` keeps the byte after the read is the model's choice,
log entry 19. -/
def Obligations.StagingInvocationSendsTheFirstByte : Prop :=
  ∀ (s : State) (b : Byte) (q : List Byte), s.rxReady = true → s.txReady = true →
    response s.idx s.rxData = b :: q →
    ∃ t, exec .onInterrupt s = .next t ∧
      t.rxReady = false ∧ t.txReady = false ∧ t.txtrace = s.txtrace ++ [b] ∧
      t.pendingBytes = q ∧ t.txcur = 1 ∧ t.txlen = q.length + 1 ∧ t.txie = (q != []) ∧
      (∀ a, t.rxbuf.read a =
        if classify s.rxData = .other ∧ a = s.idx then some s.rxData else s.rxbuf.read a) ∧
      (∀ a, t.txbuf.read a =
        if a < (response s.idx s.rxData).length then (response s.idx s.rxData)[a]?
        else s.txbuf.read a) ∧
      t.idx = nextIdx s.idx s.rxData ∧ t.rxData = s.rxData ∧ t.rxie = s.rxie ∧
      t.loc = Locals.clear ∧ SameModel s t

/-- What an invocation that receives a byte does to the line (10_state.md section 2, 40_rx_reaction.md
section 2): Enter empties it, Erase drops its last byte, any other byte is appended while there is
room. It holds on paced and unpaced runs alike: hazard H1 never corrupts the line. -/
def Obligations.InvocationEditsTheLine : Prop :=
  ∀ s : State, s.Inv → s.rxReady = true →
    ∃ t, exec .onInterrupt s = .next t ∧ t.rxReady = false ∧
      t.line = editLine s.line s.rxData ∧ t.line.length = t.idx

/-- Hazard H1 (70_reset_and_hazards.md section 2): a byte whose arm stages, served while an earlier
response is pending, loses exactly the unsent bytes of that response. All of them are lost because the
RX reaction runs before the TX reaction, the spec's choice D7: a TX-first block would send one of them
first. -/
def Obligations.StagingOverwriteLosesTheUnsentBytes : Prop :=
  ∀ s : State, s.Inv → s.rxReady = true → s.txcur < s.txlen → response s.idx s.rxData ≠ [] →
    s.pendingBytes ≠ [] ∧
    ∃ t, exec .onInterrupt s = .next t ∧ t.emitted = s.txtrace ++ response s.idx s.rxData

/-- A spurious invocation changes nothing (60_exceptions.md section 3; derived by the spec). -/
def Obligations.SpuriousInvocationIsHarmless : Prop :=
  ∀ s : State, s.Inv → s.rxie = true → s.irq = false → exec .onInterrupt s = .next s

/-- Hazard H3 (70_reset_and_hazards.md section 2): in the storm state the dispatcher is invoked again
and again and nothing changes, for ever. -/
def Obligations.StormNeverEndsByItself : Prop :=
  ∀ (s : State) (k : Nat), s.storm = true → s.rxReady = false → s.rxie = true →
    s.loc = Locals.clear →
    s.irq = true ∧
    runSteps k (s.setScript (List.replicate k .handler)) = .next (s.setScript [])

/-- A received byte whose arm stages ends the storm: INV3 holds again (70_reset_and_hazards.md section
2; derived by the spec). -/
def Obligations.StagedByteEndsTheStorm : Prop :=
  ∀ s : State, s.storm = true → s.rxReady = true → response s.idx s.rxData ≠ [] →
    ∃ t, exec .onInterrupt s = .next t ∧ t.inv3 ∧ t.storm = false

/-! ### The Register Interface -/

/-- RI.READ_STATUS (42_on_interrupt.md section 2). That `rx_data` keeps its value also while `rx_ready
= 0` is the model's choice, log entry 19. That an operation of the interface runs also with `rxie = 0`
is the model's choice, log entry 20. -/
def Obligations.ReadStatusReturnsThePair : Prop :=
  ∀ s : State, ∃ t, exec .riReadStatus s = .next t ∧
    t.loc.sample = ⟨s.rxReady, s.txReady⟩ ∧
    t.loc.c = s.loc.c ∧ t.loc.staged = s.loc.staged ∧ t.loc.seq = s.loc.seq ∧
    SameBlock s t ∧ SameUart s t ∧ SameModel s t

/-- RI.READ_RECEIVED_BYTE (42_on_interrupt.md section 2; that the call is a fault without a byte is
derived by the spec, log entry 15). That `rx_data` keeps the byte after the read, where 10_state.md
R18 calls it unspecified, is the model's choice, log entry 19. That an operation of the interface runs
also with `rxie = 0` is the model's choice, log entry 20. -/
def Obligations.ReadReceivedByteClearsRxReady : Prop :=
  ∀ s : State,
    (s.rxReady = false → exec .riReadReceivedByte s = .fault .readWithoutByte) ∧
    (s.rxReady = true → ∃ t, exec .riReadReceivedByte s = .next t ∧
      t.loc.c = s.rxData ∧ t.rxReady = false ∧
      t.loc.sample = s.loc.sample ∧ t.loc.staged = s.loc.staged ∧ t.loc.seq = s.loc.seq ∧
      SameBlock s t ∧ t.rxData = s.rxData ∧ t.txReady = s.txReady ∧ t.rxie = s.rxie ∧
      SameModel s t)

/-- RI.WRITE_TRANSMIT_BYTE (42_on_interrupt.md section 2; that the call is a fault with a busy
transmitter is derived by the spec). That `rx_data` keeps its value also while `rx_ready = 0` is the
model's choice, log entry 19. That an operation of the interface runs also with `rxie = 0` is the
model's choice, log entry 20. -/
def Obligations.WriteTransmitByteSendsOnce : Prop :=
  ∀ (b : Byte) (s : State),
    (s.txReady = false → exec (.riWriteTransmitByte b) s = .fault .writeWhileBusy) ∧
    (s.txReady = true → ∃ t, exec (.riWriteTransmitByte b) s = .next t ∧
      t.txtrace = s.txtrace ++ [b] ∧ t.txReady = false ∧
      (∀ a, t.rxbuf.read a = s.rxbuf.read a) ∧ (∀ a, t.txbuf.read a = s.txbuf.read a) ∧
      t.idx = s.idx ∧ t.txlen = s.txlen ∧ t.txcur = s.txcur ∧ t.txie = s.txie ∧
      t.rxReady = s.rxReady ∧ t.rxData = s.rxData ∧ t.rxie = s.rxie ∧
      t.loc = s.loc ∧ SameModel s t)

/-- RI.ENABLE_TRANSMIT_INTERRUPT and RI.DISABLE_TRANSMIT_INTERRUPT (42_on_interrupt.md section 2):
each sets its bit, is idempotent, and shows in `irq` at once. That `rx_data` keeps its value also
while `rx_ready = 0` is the model's choice, log entry 19. That an operation of the interface runs also
with `rxie = 0` is the model's choice, log entry 20. -/
def Obligations.EnableAndDisableToggleTxie : Prop :=
  ∀ s : State,
    (∃ t, exec .riEnableTransmitInterrupt s = .next t ∧ t.txie = true ∧
      exec .riEnableTransmitInterrupt t = .next t ∧ (s.txReady = true → t.irq = true) ∧
      t.rxbuf = s.rxbuf ∧ t.idx = s.idx ∧ t.txbuf = s.txbuf ∧ t.txlen = s.txlen ∧
      t.txcur = s.txcur ∧ t.txtrace = s.txtrace ∧ t.loc = s.loc ∧
      SameUart s t ∧ SameModel s t) ∧
    (∃ t, exec .riDisableTransmitInterrupt s = .next t ∧ t.txie = false ∧
      exec .riDisableTransmitInterrupt t = .next t ∧ t.irq = (s.rxReady && s.rxie) ∧
      t.rxbuf = s.rxbuf ∧ t.idx = s.idx ∧ t.txbuf = s.txbuf ∧ t.txlen = s.txlen ∧
      t.txcur = s.txcur ∧ t.txtrace = s.txtrace ∧ t.loc = s.loc ∧
      SameUart s t ∧ SameModel s t)

/-- 60_exceptions.md section 2: a source is pending while its flag and its enable are both 1; what
clears each; the last byte of a response clears both halves of the TX source in one TXDRAIN; a ready
transmitter alone raises nothing. That an operation of the interface runs also with `rxie = 0` is the
model's choice, log entry 20. -/
def Obligations.SourcesPendAndClear : Prop :=
  ∀ s : State,
    (s.irq = true ↔ (s.rxReady = true ∧ s.rxie = true) ∨ (s.txReady = true ∧ s.txie = true)) ∧
    (s.rxReady = true → ∃ t, exec .riReadReceivedByte s = .next t ∧ t.rxReady = false ∧
      t.irq = (s.txReady && s.txie)) ∧
    (∀ b, s.txReady = true → ∃ t, exec (.riWriteTransmitByte b) s = .next t ∧
      t.txReady = false ∧ t.irq = (s.rxReady && s.rxie) ∧
      ∃ u, exec .envTxDone t = .next u ∧ u.txReady = true) ∧
    (∃ t, exec .riDisableTransmitInterrupt s = .next t ∧ t.txie = false ∧
      t.irq = (s.rxReady && s.rxie)) ∧
    (∀ b, s.txReady = true → s.txcur + 1 = s.txlen → s.txcur < Config.TXCAP →
      s.txbuf.read s.txcur = some b →
      ∃ t, exec .txDrain s = .next t ∧ t.txReady = false ∧ t.txie = false ∧
        t.irq = (s.rxReady && s.rxie)) ∧
    (s.rxReady = false → s.txReady = true → s.txie = false → s.irq = false)

/-! ### The environment -/

/-- ENV.RX_ARRIVE with no unread byte (42_on_interrupt.md section 3). -/
def Obligations.ArrivalDeliversTheByte : Prop :=
  ∀ (b : Byte) (s : State), s.rxReady = false → ∃ t, exec (.envRxArrive b) s = .next t ∧
    t.rxData = b ∧ t.rxReady = true ∧
    SameBlock s t ∧ t.txReady = s.txReady ∧ t.rxie = s.rxie ∧ t.loc = s.loc ∧ SameModel s t

/-- ENV.RX_ARRIVE over an unread byte: whatever the OPEN policy, one of the two bytes survives and the
block's state is untouched (42_on_interrupt.md section 3, D15, log entry 10). -/
def Obligations.OverrunKeepsExactlyOneByte : Prop :=
  ∀ (b : Byte) (s : State), s.rxReady = true →
    (∃ t, exec (.envRxArrive b) s = .next t ∧
      t.rxReady = true ∧ (t.rxData = s.rxData ∨ t.rxData = b) ∧
      SameBlock s t ∧ t.txReady = s.txReady ∧ t.rxie = s.rxie ∧ t.loc = s.loc ∧
      t.script = s.script) ∧
    rxArriveWith .keepOld b s = .next s ∧
    rxArriveWith .replace b s = .next (s.setRxData b)

/-- ENV.TX_DONE (42_on_interrupt.md R82). That `rx_data` keeps its value also while `rx_ready = 0` is
the model's choice, log entry 19. -/
def Obligations.TxDoneReassertsTxReady : Prop :=
  ∀ s : State,
    (eventEnabled .txDone s = true ↔ s.txReady = false) ∧
    ∃ t, exec .envTxDone s = .next t ∧ t.txReady = true ∧
      SameBlock s t ∧ t.rxReady = s.rxReady ∧ t.rxData = s.rxData ∧ t.rxie = s.rxie ∧
      t.loc = s.loc ∧ SameModel s t

/-- FG.IDLE (42_on_interrupt.md R83). -/
def Obligations.IdleChangesNothing : Prop :=
  ∀ s : State, eventEnabled .idle s = true ∧ exec .fgIdle s = .next s

/-! ### Reset and launch -/

/-- RESET from any state (70_reset_and_hazards.md section 1; the values of the registers are the spec's
choice D11, `tx_ready` its OPEN parameter D16, log entry 3). The spec leaves the cells unspecified: that
they hold no value is the model's choice, log entry 5; that the transients are clear is log entry 7; the
value of `rx_data` is log entry 4 and is not stated. The script and the draws are the outside's and stay
(log entry 1). -/
def Obligations.ResetLeavesTheResetValues : Prop :=
  ∀ s : State, ∃ t, exec .reset s = .next t ∧
    t.idx = 0 ∧ t.txlen = 0 ∧ t.txcur = 0 ∧ t.txie = false ∧ t.rxReady = false ∧
    t.rxie = false ∧ t.txReady = Config.txReadyAtLaunch ∧ t.txtrace = [] ∧
    (∀ a, t.rxbuf.read a = none) ∧ (∀ a, t.txbuf.read a = none) ∧
    t.loc = Locals.clear ∧ SameModel s t

/-- The reset state meets the invariant (10_state.md section 4). -/
def Obligations.ResetStateMeetsInvariant : Prop := State.reset.Inv

/-- Launch from reset (70_reset_and_hazards.md section 1; the launch event is log entry 2): the reset
state with `rxie = 1`, quiescent, the invariant met, for either value of `TX_READY_AT_LAUNCH`. Enabled
there are the steps of the environment and the foreground, reset, and the spurious invocation that the
model offers beside the spec's agents (log entry 12); the handler and launch are not. -/
def Obligations.LaunchFromResetIsQuiescent : Prop :=
  ∀ rest : List Event, ∃ t,
    step (State.reset.setScript (.launch :: rest)) = .next t ∧
    t = (State.reset.setScript rest).setRxie true ∧ t.irq = false ∧ t.Inv ∧
    eventEnabled .handler t = false ∧ eventEnabled .launch t = false ∧
    eventEnabled .spurious t = true ∧ eventEnabled .reset t = true ∧
    (∀ b, eventEnabled (.rxArrive b) t = true) ∧ eventEnabled .idle t = true ∧
    (eventEnabled .txDone t = true ↔ Config.txReadyAtLaunch = false)

/-! ### The step -/

/-- A step moves the agent of the script's first event, if its step is enabled, and the foreground
otherwise (00_scope.md section 4; log entry 1). The spurious invocation, offered from launch on, is log
entry 12; the launch event, enabled in the reset state alone, is log entry 2. -/
def Obligations.StepMovesTheScriptsAgent : Prop :=
  ∀ (s : State) (rest : List Event),
    (s.script = .handler :: rest → s.irq = true → s.rxie = true →
      step s = exec .onInterrupt (s.setScript rest)) ∧
    (s.script = .handler :: rest → s.irq = false → step s = exec .fgIdle (s.setScript rest)) ∧
    (s.script = .spurious :: rest → s.rxie = true →
      step s = exec .onInterrupt (s.setScript rest)) ∧
    (s.script = .spurious :: rest → s.rxie = false →
      step s = exec .fgIdle (s.setScript rest)) ∧
    (∀ b, s.script = .rxArrive b :: rest →
      step s = exec (.envRxArrive b) (s.setScript rest)) ∧
    (s.script = .txDone :: rest → s.txReady = false →
      step s = exec .envTxDone (s.setScript rest)) ∧
    (s.script = .txDone :: rest → s.txReady = true →
      step s = exec .fgIdle (s.setScript rest)) ∧
    (s.script = .idle :: rest → step s = exec .fgIdle (s.setScript rest)) ∧
    (s.script = .reset :: rest → step s = exec .reset (s.setScript rest)) ∧
    (s.script = .launch :: rest → s.atReset → step s = .next ((s.setScript rest).setRxie true)) ∧
    (s.script = .launch :: rest → ¬ s.atReset → step s = exec .fgIdle (s.setScript rest))

/-- A step of the handler over a waiting byte runs the instruction the byte decodes to, with the status
read and the data read before it, STAGE and the TX reaction after it (42_on_interrupt.md section 1). That
the TX reaction comes after the RX reaction is the spec's choice D7; that it does nothing with nothing
pending is written as TXDRAIN's own guard (log entry 13). -/
def Obligations.StepRunsTheWaitingByte : Prop :=
  ∀ (s : State) (rest : List Event),
    s.script = .handler :: rest → s.rxReady = true → s.rxie = true →
    step s =
      andThen (exec .riReadStatus ((s.setScript rest).setLoc Locals.clear)) fun s1 =>
      andThen (exec .riReadReceivedByte s1) fun s2 =>
      andThen (exec (decodeByte s.rxData) (s2.setLoc { s2.loc with staged := false })) fun s3 =>
      andThen (if s3.loc.staged = true then exec (.stage s3.loc.seq) s3 else .next s3) fun s4 =>
      andThen (if s.txReady = true then exec .txDrain s4 else .next s4) fun s5 =>
        .next (s5.setLoc Locals.clear)

/-- A word placed by `withFetchWord` is what the next step runs (log entries 2 and 11). -/
def Obligations.PlacedWordIsRunNext : Prop :=
  (∀ (s : State) (w : Nat), w < 256 →
    decodeTableWord 8 w = some (decodeByte (BitVec.ofNat 8 w)) ∧
    (s.withFetchWord 8 w).rxData = BitVec.ofNat 8 w ∧
    (s.withFetchWord 8 w).rxReady = true ∧
    step (s.withFetchWord 8 w) =
      exec .onInterrupt ((s.withFetchWord 8 w).setScript s.script)) ∧
  (∀ (s : State) (w : Nat), 1 ≤ w → w < 4 →
    decodeTableWord 2 w = (decodeStatus (BitVec.ofNat 2 w)).head? ∧
    (s.withFetchWord 2 w).status.word = BitVec.ofNat 2 w ∧
    step (s.withFetchWord 2 w) =
      exec .onInterrupt ((s.withFetchWord 2 w).setScript s.script))

/-- An interrupt serviced before the initialisation contract holds is given no meaning
(70_reset_and_hazards.md section 2, hazard H5). -/
def Obligations.ServiceBeforeInitialisationIsRefused : Prop :=
  ∀ (s : State) (rest : List Event), s.script = .handler :: rest → s.irq = true →
    s.rxie = false → step s = .refused .serviceBeforeInitialisation

/-- Every step of every agent keeps the invariant (10_state.md section 4), whatever the free values. -/
def Obligations.EveryStepKeepsInvariant : Prop :=
  ∀ s t : State, s.Inv → step s = .next t → t.Inv

/-- From a state that meets the invariant every step ends in a next state: no fault, no refusal, no
stuck state (60_exceptions.md section 1). -/
def Obligations.InvariantStatesAlwaysStep : Prop :=
  ∀ s : State, s.Inv → ∃ t, step s = .next t

/-- 70_reset_and_hazards.md section 1, launch: the step in which `rxie` rises is the launch event, taken
in the reset state, and leads to the launch state: every register at its reset value but `rxie = 1`, no
byte received, nothing requested, INV1 to INV4 met (the launch event is log entry 2). -/
def Obligations.LaunchLeadsFromResetToLaunchState : Prop :=
  ∀ s t : State, step s = .next t → s.rxie = false → t.rxie = true →
    (nextEvent s).1 = .launch ∧ s.atReset ∧ (t.setRxie false).atReset ∧
    t.rxbuf = s.rxbuf ∧ t.txbuf = s.txbuf ∧ t.rxData = s.rxData ∧ t.loc = s.loc ∧
    t.irq = false ∧ t.inv1 ∧ t.inv2 ∧ t.inv3 ∧ t.inv4

/-! ### Whole-machine rules -/

/-- The environment moves nothing the block owns (20_memory.md section 3). -/
def Obligations.EnvironmentLeavesTheBlockAlone : Prop :=
  ∀ s : State, isEnvironment (nextEvent s).1 = true →
    ∃ t, step s = .next t ∧ SameBlock s t ∧ t.rxie = s.rxie ∧ t.loc = s.loc

/-- Each flag and enable is moved only by its writers (10_state.md sections 2 and 3): `rx_ready` set by
an arrival, cleared by an invocation; `tx_ready` set by `tx_done`, cleared by an invocation; `txie`
moved by an invocation; `rxie` by launch; any of them by reset. -/
def Obligations.FlagsMoveOnlyByTheirWriters : Prop :=
  ∀ s t : State, step s = .next t → (nextEvent s).1 ≠ .reset →
    (s.rxReady = false → t.rxReady = true → ∃ b, (nextEvent s).1 = .rxArrive b) ∧
    (s.rxReady = true → t.rxReady = false →
      (nextEvent s).1 = .handler ∨ (nextEvent s).1 = .spurious) ∧
    (s.txReady = false → t.txReady = true → (nextEvent s).1 = .txDone) ∧
    (s.txReady = true → t.txReady = false →
      (nextEvent s).1 = .handler ∨ (nextEvent s).1 = .spurious) ∧
    (t.txie ≠ s.txie → (nextEvent s).1 = .handler ∨ (nextEvent s).1 = .spurious) ∧
    (t.rxie ≠ s.rxie → (nextEvent s).1 = .launch)

/-- At most one byte is sent per step, only to a transmitter that was ready, which is then busy
(41_tx_drain.md section on TXDRAIN, 70_reset_and_hazards.md section 3). -/
def Obligations.OneByteSentPerStepAtMost : Prop :=
  ∀ s t : State, step s = .next t → (nextEvent s).1 ≠ .reset →
    t.txtrace = s.txtrace ∨
    (s.txReady = true ∧ t.txReady = false ∧ ∃ b, t.txtrace = s.txtrace ++ [b])

/-- Nothing reads the receive buffer: two states that differ in it alone step alike, but for it
(10_state.md section 2, 20_memory.md section 1). -/
def Obligations.NothingReadsTheReceiveBuffer : Prop :=
  ∀ (s : State) (m : Memory),
    withoutRxbuf (step (s.setRxbuf m)) = withoutRxbuf (step s)

/-- The reserved cell `rxbuf[N-1]` is never written, with `NUL_ON_ENTER = false` (20_memory.md section
2; log entry 8). -/
def Obligations.ReservedCellStaysUnwritten : Prop :=
  ∀ s t : State, step s = .next t → s.rxbuf.read (Config.N - 1) = none →
    t.rxbuf.read (Config.N - 1) = none

/-! ### Headlines -/

/-- Under the pacing premise every step of the machine is the line editor's move: a waiting byte is
answered at once with `resp(b)`, in full, and nothing else ever reaches the wire
(70_reset_and_hazards.md section 2; derived by the spec). The premise has a launch happen in the reset
state or not at all (log entry 2). -/
def Obligations.PacedStepsRefineTheLineEditor : Prop :=
  ∀ s : State, s.Inv → Paced (nextEvent s).1 s →
    ∃ t, step s = .next t ∧ t.editor = Editor.move (nextEvent s).1 s.editor

/-- A paced run from reset over any bytes: what was sent is `resp(b1) ++ .. ++ resp(bn)`, the line is
the edited line, and the machine is at rest, for either value of `TX_READY_AT_LAUNCH`
(70_reset_and_hazards.md section 2; derived by the spec). That three rounds of `TXDONE` are enough for
each byte rests on the order RX before TX, the spec's choice D7; the launch event is log entry 2. -/
def Obligations.PacedRunEchoesEveryByte : Prop :=
  ∀ bytes : List Byte, ∃ t : State,
    runSteps (2 + 7 * bytes.length)
      (State.reset.setScript (.launch :: .txDone :: pacedScript bytes)) = .next t ∧
    t.txtrace = responses 0 bytes ∧ t.line = bytes.foldl editLine [] ∧
    t.restful = true ∧ t.txReady = true ∧ t.script = []

/-- The drain of one response (41_tx_drain.md; derived by the spec): with no further byte the unsent
bytes leave in order, one per `TXDONE, ISR`, and the interrupt ends disabled. -/
def Obligations.DrainSendsThePendingBytesInOrder : Prop :=
  ∀ (s : State) (rest : List Event), s.Inv → s.rxie = true → s.rxReady = false →
    s.pendingBytes.length = s.txlen - s.txcur ∧
    ∃ t : State,
      runSteps (2 * (s.txlen - s.txcur))
        (s.setScript (drainScript (s.txlen - s.txcur) ++ rest)) = .next t ∧
      t.txtrace = s.txtrace ++ s.pendingBytes ∧ t.txcur = t.txlen ∧ t.txlen = s.txlen ∧
      t.txie = false ∧ t.idx = s.idx ∧ t.rxbuf = s.rxbuf ∧ t.txbuf = s.txbuf ∧
      t.rxReady = false ∧ t.script = rest

/-- If no further byte arrives, four invocations, each after `tx_done`, bring the machine to rest
(70_reset_and_hazards.md section 3; derived by the spec). That the first may serve a byte and send rests
on the order RX before TX, the spec's choice D7. -/
def Obligations.FourInvocationsReachRest : Prop :=
  ∀ s : State, s.Inv → s.rxie = true → ∃ t : State,
    runSteps 8 (s.setScript (drainScript 4)) = .next t ∧
    t.restful = true ∧ t.rxReady = false ∧ t.script = []
end

