-- ==== Sys2Proof/Laws/Decode.lean ====
section
/-! SUPPORT. What the decoder answers, class by class (30_encoding.md R51). -/

namespace Sys2Proof

theorem classify_eq_enter_iff (c : Byte) : classify c = .enter ↔ c = Config.CR := by
  unfold classify
  split
  · simp_all
  · split <;> simp_all

theorem classify_eq_erase_iff (c : Byte) :
    classify c = .erase ↔ c = Config.BS ∨ c = Config.DEL := by
  unfold classify
  split
  · subst_vars; decide
  · split <;> simp_all

theorem classify_eq_other_iff (c : Byte) :
    classify c = .other ↔ c ≠ Config.CR ∧ c ≠ Config.BS ∧ c ≠ Config.DEL := by
  unfold classify
  split
  · simp_all
  · split <;> simp_all
    · tauto

/-- Everything `decodeByte` can answer. -/
theorem decodeByte_cases (c : Byte) :
    (c = Config.CR ∧ decodeByte c = .enter) ∨ (c = Config.BS ∧ decodeByte c = .eraseBs) ∨
    (c = Config.DEL ∧ decodeByte c = .eraseDel) ∨ (classify c = .other ∧ decodeByte c = .store c) := by
  cases h : classify c
  · exact .inl ⟨(classify_eq_enter_iff c).mp h, by simp [decodeByte, h]⟩
  · rcases (classify_eq_erase_iff c).mp h with rfl | rfl
    · exact .inr (.inl ⟨rfl, rfl⟩)
    · exact .inr (.inr (.inl ⟨rfl, rfl⟩))
  · exact .inr (.inr (.inr ⟨rfl, by simp [decodeByte, h]⟩))

theorem encodeByte_decodeByte (c : Byte) : encodeByte (decodeByte c) = some c := by
  rcases decodeByte_cases c with ⟨rfl, h⟩ | ⟨rfl, h⟩ | ⟨rfl, h⟩ | ⟨_, h⟩ <;> rw [h] <;> rfl

theorem decodeByte_wellFormed (c : Byte) : (decodeByte c).wellFormed = true := by
  rcases decodeByte_cases c with ⟨_, h⟩ | ⟨_, h⟩ | ⟨_, h⟩ | ⟨hc, h⟩ <;> rw [h]
  · rfl
  · rfl
  · rfl
  · simpa [Instr.wellFormed, and_assoc] using (classify_eq_other_iff c).mp hc

theorem decodeByte_store {c : Byte} (h : (Instr.store c).wellFormed = true) :
    decodeByte c = .store c := by
  have : classify c = .other := (classify_eq_other_iff c).mpr (by
    simpa [Instr.wellFormed, and_assoc] using h)
  simp [decodeByte, this]

end Sys2Proof
end

