-- ==== Sys2Proof/Laws/State.lean ====
section
/-! SUPPORT. One lemma per field per setter of `State`, each true by rfl, so that no later proof
unfolds a record update. -/

namespace Sys2Proof.Machine

@[simp] theorem State.setRxbuf_rxbuf (s : State) (v : Memory) : (s.setRxbuf v).rxbuf = v := rfl
@[simp] theorem State.setRxbuf_idx (s : State) (v : Memory) : (s.setRxbuf v).idx = s.idx := rfl
@[simp] theorem State.setRxbuf_txbuf (s : State) (v : Memory) : (s.setRxbuf v).txbuf = s.txbuf := rfl
@[simp] theorem State.setRxbuf_txlen (s : State) (v : Memory) : (s.setRxbuf v).txlen = s.txlen := rfl
@[simp] theorem State.setRxbuf_txcur (s : State) (v : Memory) : (s.setRxbuf v).txcur = s.txcur := rfl
@[simp] theorem State.setRxbuf_txie (s : State) (v : Memory) : (s.setRxbuf v).txie = s.txie := rfl
@[simp] theorem State.setRxbuf_rxReady (s : State) (v : Memory) : (s.setRxbuf v).rxReady = s.rxReady := rfl
@[simp] theorem State.setRxbuf_rxData (s : State) (v : Memory) : (s.setRxbuf v).rxData = s.rxData := rfl
@[simp] theorem State.setRxbuf_txReady (s : State) (v : Memory) : (s.setRxbuf v).txReady = s.txReady := rfl
@[simp] theorem State.setRxbuf_rxie (s : State) (v : Memory) : (s.setRxbuf v).rxie = s.rxie := rfl
@[simp] theorem State.setRxbuf_txtrace (s : State) (v : Memory) : (s.setRxbuf v).txtrace = s.txtrace := rfl
@[simp] theorem State.setRxbuf_loc (s : State) (v : Memory) : (s.setRxbuf v).loc = s.loc := rfl
@[simp] theorem State.setRxbuf_script (s : State) (v : Memory) : (s.setRxbuf v).script = s.script := rfl
@[simp] theorem State.setRxbuf_draws (s : State) (v : Memory) : (s.setRxbuf v).draws = s.draws := rfl

@[simp] theorem State.setIdx_rxbuf (s : State) (v : Nat) : (s.setIdx v).rxbuf = s.rxbuf := rfl
@[simp] theorem State.setIdx_idx (s : State) (v : Nat) : (s.setIdx v).idx = v := rfl
@[simp] theorem State.setIdx_txbuf (s : State) (v : Nat) : (s.setIdx v).txbuf = s.txbuf := rfl
@[simp] theorem State.setIdx_txlen (s : State) (v : Nat) : (s.setIdx v).txlen = s.txlen := rfl
@[simp] theorem State.setIdx_txcur (s : State) (v : Nat) : (s.setIdx v).txcur = s.txcur := rfl
@[simp] theorem State.setIdx_txie (s : State) (v : Nat) : (s.setIdx v).txie = s.txie := rfl
@[simp] theorem State.setIdx_rxReady (s : State) (v : Nat) : (s.setIdx v).rxReady = s.rxReady := rfl
@[simp] theorem State.setIdx_rxData (s : State) (v : Nat) : (s.setIdx v).rxData = s.rxData := rfl
@[simp] theorem State.setIdx_txReady (s : State) (v : Nat) : (s.setIdx v).txReady = s.txReady := rfl
@[simp] theorem State.setIdx_rxie (s : State) (v : Nat) : (s.setIdx v).rxie = s.rxie := rfl
@[simp] theorem State.setIdx_txtrace (s : State) (v : Nat) : (s.setIdx v).txtrace = s.txtrace := rfl
@[simp] theorem State.setIdx_loc (s : State) (v : Nat) : (s.setIdx v).loc = s.loc := rfl
@[simp] theorem State.setIdx_script (s : State) (v : Nat) : (s.setIdx v).script = s.script := rfl
@[simp] theorem State.setIdx_draws (s : State) (v : Nat) : (s.setIdx v).draws = s.draws := rfl

@[simp] theorem State.setTxbuf_rxbuf (s : State) (v : Memory) : (s.setTxbuf v).rxbuf = s.rxbuf := rfl
@[simp] theorem State.setTxbuf_idx (s : State) (v : Memory) : (s.setTxbuf v).idx = s.idx := rfl
@[simp] theorem State.setTxbuf_txbuf (s : State) (v : Memory) : (s.setTxbuf v).txbuf = v := rfl
@[simp] theorem State.setTxbuf_txlen (s : State) (v : Memory) : (s.setTxbuf v).txlen = s.txlen := rfl
@[simp] theorem State.setTxbuf_txcur (s : State) (v : Memory) : (s.setTxbuf v).txcur = s.txcur := rfl
@[simp] theorem State.setTxbuf_txie (s : State) (v : Memory) : (s.setTxbuf v).txie = s.txie := rfl
@[simp] theorem State.setTxbuf_rxReady (s : State) (v : Memory) : (s.setTxbuf v).rxReady = s.rxReady := rfl
@[simp] theorem State.setTxbuf_rxData (s : State) (v : Memory) : (s.setTxbuf v).rxData = s.rxData := rfl
@[simp] theorem State.setTxbuf_txReady (s : State) (v : Memory) : (s.setTxbuf v).txReady = s.txReady := rfl
@[simp] theorem State.setTxbuf_rxie (s : State) (v : Memory) : (s.setTxbuf v).rxie = s.rxie := rfl
@[simp] theorem State.setTxbuf_txtrace (s : State) (v : Memory) : (s.setTxbuf v).txtrace = s.txtrace := rfl
@[simp] theorem State.setTxbuf_loc (s : State) (v : Memory) : (s.setTxbuf v).loc = s.loc := rfl
@[simp] theorem State.setTxbuf_script (s : State) (v : Memory) : (s.setTxbuf v).script = s.script := rfl
@[simp] theorem State.setTxbuf_draws (s : State) (v : Memory) : (s.setTxbuf v).draws = s.draws := rfl

@[simp] theorem State.setTxlen_rxbuf (s : State) (v : Nat) : (s.setTxlen v).rxbuf = s.rxbuf := rfl
@[simp] theorem State.setTxlen_idx (s : State) (v : Nat) : (s.setTxlen v).idx = s.idx := rfl
@[simp] theorem State.setTxlen_txbuf (s : State) (v : Nat) : (s.setTxlen v).txbuf = s.txbuf := rfl
@[simp] theorem State.setTxlen_txlen (s : State) (v : Nat) : (s.setTxlen v).txlen = v := rfl
@[simp] theorem State.setTxlen_txcur (s : State) (v : Nat) : (s.setTxlen v).txcur = s.txcur := rfl
@[simp] theorem State.setTxlen_txie (s : State) (v : Nat) : (s.setTxlen v).txie = s.txie := rfl
@[simp] theorem State.setTxlen_rxReady (s : State) (v : Nat) : (s.setTxlen v).rxReady = s.rxReady := rfl
@[simp] theorem State.setTxlen_rxData (s : State) (v : Nat) : (s.setTxlen v).rxData = s.rxData := rfl
@[simp] theorem State.setTxlen_txReady (s : State) (v : Nat) : (s.setTxlen v).txReady = s.txReady := rfl
@[simp] theorem State.setTxlen_rxie (s : State) (v : Nat) : (s.setTxlen v).rxie = s.rxie := rfl
@[simp] theorem State.setTxlen_txtrace (s : State) (v : Nat) : (s.setTxlen v).txtrace = s.txtrace := rfl
@[simp] theorem State.setTxlen_loc (s : State) (v : Nat) : (s.setTxlen v).loc = s.loc := rfl
@[simp] theorem State.setTxlen_script (s : State) (v : Nat) : (s.setTxlen v).script = s.script := rfl
@[simp] theorem State.setTxlen_draws (s : State) (v : Nat) : (s.setTxlen v).draws = s.draws := rfl

@[simp] theorem State.setTxcur_rxbuf (s : State) (v : Nat) : (s.setTxcur v).rxbuf = s.rxbuf := rfl
@[simp] theorem State.setTxcur_idx (s : State) (v : Nat) : (s.setTxcur v).idx = s.idx := rfl
@[simp] theorem State.setTxcur_txbuf (s : State) (v : Nat) : (s.setTxcur v).txbuf = s.txbuf := rfl
@[simp] theorem State.setTxcur_txlen (s : State) (v : Nat) : (s.setTxcur v).txlen = s.txlen := rfl
@[simp] theorem State.setTxcur_txcur (s : State) (v : Nat) : (s.setTxcur v).txcur = v := rfl
@[simp] theorem State.setTxcur_txie (s : State) (v : Nat) : (s.setTxcur v).txie = s.txie := rfl
@[simp] theorem State.setTxcur_rxReady (s : State) (v : Nat) : (s.setTxcur v).rxReady = s.rxReady := rfl
@[simp] theorem State.setTxcur_rxData (s : State) (v : Nat) : (s.setTxcur v).rxData = s.rxData := rfl
@[simp] theorem State.setTxcur_txReady (s : State) (v : Nat) : (s.setTxcur v).txReady = s.txReady := rfl
@[simp] theorem State.setTxcur_rxie (s : State) (v : Nat) : (s.setTxcur v).rxie = s.rxie := rfl
@[simp] theorem State.setTxcur_txtrace (s : State) (v : Nat) : (s.setTxcur v).txtrace = s.txtrace := rfl
@[simp] theorem State.setTxcur_loc (s : State) (v : Nat) : (s.setTxcur v).loc = s.loc := rfl
@[simp] theorem State.setTxcur_script (s : State) (v : Nat) : (s.setTxcur v).script = s.script := rfl
@[simp] theorem State.setTxcur_draws (s : State) (v : Nat) : (s.setTxcur v).draws = s.draws := rfl

@[simp] theorem State.setTxie_rxbuf (s : State) (v : Bool) : (s.setTxie v).rxbuf = s.rxbuf := rfl
@[simp] theorem State.setTxie_idx (s : State) (v : Bool) : (s.setTxie v).idx = s.idx := rfl
@[simp] theorem State.setTxie_txbuf (s : State) (v : Bool) : (s.setTxie v).txbuf = s.txbuf := rfl
@[simp] theorem State.setTxie_txlen (s : State) (v : Bool) : (s.setTxie v).txlen = s.txlen := rfl
@[simp] theorem State.setTxie_txcur (s : State) (v : Bool) : (s.setTxie v).txcur = s.txcur := rfl
@[simp] theorem State.setTxie_txie (s : State) (v : Bool) : (s.setTxie v).txie = v := rfl
@[simp] theorem State.setTxie_rxReady (s : State) (v : Bool) : (s.setTxie v).rxReady = s.rxReady := rfl
@[simp] theorem State.setTxie_rxData (s : State) (v : Bool) : (s.setTxie v).rxData = s.rxData := rfl
@[simp] theorem State.setTxie_txReady (s : State) (v : Bool) : (s.setTxie v).txReady = s.txReady := rfl
@[simp] theorem State.setTxie_rxie (s : State) (v : Bool) : (s.setTxie v).rxie = s.rxie := rfl
@[simp] theorem State.setTxie_txtrace (s : State) (v : Bool) : (s.setTxie v).txtrace = s.txtrace := rfl
@[simp] theorem State.setTxie_loc (s : State) (v : Bool) : (s.setTxie v).loc = s.loc := rfl
@[simp] theorem State.setTxie_script (s : State) (v : Bool) : (s.setTxie v).script = s.script := rfl
@[simp] theorem State.setTxie_draws (s : State) (v : Bool) : (s.setTxie v).draws = s.draws := rfl

@[simp] theorem State.setRxReady_rxbuf (s : State) (v : Bool) : (s.setRxReady v).rxbuf = s.rxbuf := rfl
@[simp] theorem State.setRxReady_idx (s : State) (v : Bool) : (s.setRxReady v).idx = s.idx := rfl
@[simp] theorem State.setRxReady_txbuf (s : State) (v : Bool) : (s.setRxReady v).txbuf = s.txbuf := rfl
@[simp] theorem State.setRxReady_txlen (s : State) (v : Bool) : (s.setRxReady v).txlen = s.txlen := rfl
@[simp] theorem State.setRxReady_txcur (s : State) (v : Bool) : (s.setRxReady v).txcur = s.txcur := rfl
@[simp] theorem State.setRxReady_txie (s : State) (v : Bool) : (s.setRxReady v).txie = s.txie := rfl
@[simp] theorem State.setRxReady_rxReady (s : State) (v : Bool) : (s.setRxReady v).rxReady = v := rfl
@[simp] theorem State.setRxReady_rxData (s : State) (v : Bool) : (s.setRxReady v).rxData = s.rxData := rfl
@[simp] theorem State.setRxReady_txReady (s : State) (v : Bool) : (s.setRxReady v).txReady = s.txReady := rfl
@[simp] theorem State.setRxReady_rxie (s : State) (v : Bool) : (s.setRxReady v).rxie = s.rxie := rfl
@[simp] theorem State.setRxReady_txtrace (s : State) (v : Bool) : (s.setRxReady v).txtrace = s.txtrace := rfl
@[simp] theorem State.setRxReady_loc (s : State) (v : Bool) : (s.setRxReady v).loc = s.loc := rfl
@[simp] theorem State.setRxReady_script (s : State) (v : Bool) : (s.setRxReady v).script = s.script := rfl
@[simp] theorem State.setRxReady_draws (s : State) (v : Bool) : (s.setRxReady v).draws = s.draws := rfl

@[simp] theorem State.setRxData_rxbuf (s : State) (v : Byte) : (s.setRxData v).rxbuf = s.rxbuf := rfl
@[simp] theorem State.setRxData_idx (s : State) (v : Byte) : (s.setRxData v).idx = s.idx := rfl
@[simp] theorem State.setRxData_txbuf (s : State) (v : Byte) : (s.setRxData v).txbuf = s.txbuf := rfl
@[simp] theorem State.setRxData_txlen (s : State) (v : Byte) : (s.setRxData v).txlen = s.txlen := rfl
@[simp] theorem State.setRxData_txcur (s : State) (v : Byte) : (s.setRxData v).txcur = s.txcur := rfl
@[simp] theorem State.setRxData_txie (s : State) (v : Byte) : (s.setRxData v).txie = s.txie := rfl
@[simp] theorem State.setRxData_rxReady (s : State) (v : Byte) : (s.setRxData v).rxReady = s.rxReady := rfl
@[simp] theorem State.setRxData_rxData (s : State) (v : Byte) : (s.setRxData v).rxData = v := rfl
@[simp] theorem State.setRxData_txReady (s : State) (v : Byte) : (s.setRxData v).txReady = s.txReady := rfl
@[simp] theorem State.setRxData_rxie (s : State) (v : Byte) : (s.setRxData v).rxie = s.rxie := rfl
@[simp] theorem State.setRxData_txtrace (s : State) (v : Byte) : (s.setRxData v).txtrace = s.txtrace := rfl
@[simp] theorem State.setRxData_loc (s : State) (v : Byte) : (s.setRxData v).loc = s.loc := rfl
@[simp] theorem State.setRxData_script (s : State) (v : Byte) : (s.setRxData v).script = s.script := rfl
@[simp] theorem State.setRxData_draws (s : State) (v : Byte) : (s.setRxData v).draws = s.draws := rfl

@[simp] theorem State.setTxReady_rxbuf (s : State) (v : Bool) : (s.setTxReady v).rxbuf = s.rxbuf := rfl
@[simp] theorem State.setTxReady_idx (s : State) (v : Bool) : (s.setTxReady v).idx = s.idx := rfl
@[simp] theorem State.setTxReady_txbuf (s : State) (v : Bool) : (s.setTxReady v).txbuf = s.txbuf := rfl
@[simp] theorem State.setTxReady_txlen (s : State) (v : Bool) : (s.setTxReady v).txlen = s.txlen := rfl
@[simp] theorem State.setTxReady_txcur (s : State) (v : Bool) : (s.setTxReady v).txcur = s.txcur := rfl
@[simp] theorem State.setTxReady_txie (s : State) (v : Bool) : (s.setTxReady v).txie = s.txie := rfl
@[simp] theorem State.setTxReady_rxReady (s : State) (v : Bool) : (s.setTxReady v).rxReady = s.rxReady := rfl
@[simp] theorem State.setTxReady_rxData (s : State) (v : Bool) : (s.setTxReady v).rxData = s.rxData := rfl
@[simp] theorem State.setTxReady_txReady (s : State) (v : Bool) : (s.setTxReady v).txReady = v := rfl
@[simp] theorem State.setTxReady_rxie (s : State) (v : Bool) : (s.setTxReady v).rxie = s.rxie := rfl
@[simp] theorem State.setTxReady_txtrace (s : State) (v : Bool) : (s.setTxReady v).txtrace = s.txtrace := rfl
@[simp] theorem State.setTxReady_loc (s : State) (v : Bool) : (s.setTxReady v).loc = s.loc := rfl
@[simp] theorem State.setTxReady_script (s : State) (v : Bool) : (s.setTxReady v).script = s.script := rfl
@[simp] theorem State.setTxReady_draws (s : State) (v : Bool) : (s.setTxReady v).draws = s.draws := rfl

@[simp] theorem State.setRxie_rxbuf (s : State) (v : Bool) : (s.setRxie v).rxbuf = s.rxbuf := rfl
@[simp] theorem State.setRxie_idx (s : State) (v : Bool) : (s.setRxie v).idx = s.idx := rfl
@[simp] theorem State.setRxie_txbuf (s : State) (v : Bool) : (s.setRxie v).txbuf = s.txbuf := rfl
@[simp] theorem State.setRxie_txlen (s : State) (v : Bool) : (s.setRxie v).txlen = s.txlen := rfl
@[simp] theorem State.setRxie_txcur (s : State) (v : Bool) : (s.setRxie v).txcur = s.txcur := rfl
@[simp] theorem State.setRxie_txie (s : State) (v : Bool) : (s.setRxie v).txie = s.txie := rfl
@[simp] theorem State.setRxie_rxReady (s : State) (v : Bool) : (s.setRxie v).rxReady = s.rxReady := rfl
@[simp] theorem State.setRxie_rxData (s : State) (v : Bool) : (s.setRxie v).rxData = s.rxData := rfl
@[simp] theorem State.setRxie_txReady (s : State) (v : Bool) : (s.setRxie v).txReady = s.txReady := rfl
@[simp] theorem State.setRxie_rxie (s : State) (v : Bool) : (s.setRxie v).rxie = v := rfl
@[simp] theorem State.setRxie_txtrace (s : State) (v : Bool) : (s.setRxie v).txtrace = s.txtrace := rfl
@[simp] theorem State.setRxie_loc (s : State) (v : Bool) : (s.setRxie v).loc = s.loc := rfl
@[simp] theorem State.setRxie_script (s : State) (v : Bool) : (s.setRxie v).script = s.script := rfl
@[simp] theorem State.setRxie_draws (s : State) (v : Bool) : (s.setRxie v).draws = s.draws := rfl

@[simp] theorem State.setTxtrace_rxbuf (s : State) (v : List Byte) : (s.setTxtrace v).rxbuf = s.rxbuf := rfl
@[simp] theorem State.setTxtrace_idx (s : State) (v : List Byte) : (s.setTxtrace v).idx = s.idx := rfl
@[simp] theorem State.setTxtrace_txbuf (s : State) (v : List Byte) : (s.setTxtrace v).txbuf = s.txbuf := rfl
@[simp] theorem State.setTxtrace_txlen (s : State) (v : List Byte) : (s.setTxtrace v).txlen = s.txlen := rfl
@[simp] theorem State.setTxtrace_txcur (s : State) (v : List Byte) : (s.setTxtrace v).txcur = s.txcur := rfl
@[simp] theorem State.setTxtrace_txie (s : State) (v : List Byte) : (s.setTxtrace v).txie = s.txie := rfl
@[simp] theorem State.setTxtrace_rxReady (s : State) (v : List Byte) : (s.setTxtrace v).rxReady = s.rxReady := rfl
@[simp] theorem State.setTxtrace_rxData (s : State) (v : List Byte) : (s.setTxtrace v).rxData = s.rxData := rfl
@[simp] theorem State.setTxtrace_txReady (s : State) (v : List Byte) : (s.setTxtrace v).txReady = s.txReady := rfl
@[simp] theorem State.setTxtrace_rxie (s : State) (v : List Byte) : (s.setTxtrace v).rxie = s.rxie := rfl
@[simp] theorem State.setTxtrace_txtrace (s : State) (v : List Byte) : (s.setTxtrace v).txtrace = v := rfl
@[simp] theorem State.setTxtrace_loc (s : State) (v : List Byte) : (s.setTxtrace v).loc = s.loc := rfl
@[simp] theorem State.setTxtrace_script (s : State) (v : List Byte) : (s.setTxtrace v).script = s.script := rfl
@[simp] theorem State.setTxtrace_draws (s : State) (v : List Byte) : (s.setTxtrace v).draws = s.draws := rfl

@[simp] theorem State.setLoc_rxbuf (s : State) (v : Locals) : (s.setLoc v).rxbuf = s.rxbuf := rfl
@[simp] theorem State.setLoc_idx (s : State) (v : Locals) : (s.setLoc v).idx = s.idx := rfl
@[simp] theorem State.setLoc_txbuf (s : State) (v : Locals) : (s.setLoc v).txbuf = s.txbuf := rfl
@[simp] theorem State.setLoc_txlen (s : State) (v : Locals) : (s.setLoc v).txlen = s.txlen := rfl
@[simp] theorem State.setLoc_txcur (s : State) (v : Locals) : (s.setLoc v).txcur = s.txcur := rfl
@[simp] theorem State.setLoc_txie (s : State) (v : Locals) : (s.setLoc v).txie = s.txie := rfl
@[simp] theorem State.setLoc_rxReady (s : State) (v : Locals) : (s.setLoc v).rxReady = s.rxReady := rfl
@[simp] theorem State.setLoc_rxData (s : State) (v : Locals) : (s.setLoc v).rxData = s.rxData := rfl
@[simp] theorem State.setLoc_txReady (s : State) (v : Locals) : (s.setLoc v).txReady = s.txReady := rfl
@[simp] theorem State.setLoc_rxie (s : State) (v : Locals) : (s.setLoc v).rxie = s.rxie := rfl
@[simp] theorem State.setLoc_txtrace (s : State) (v : Locals) : (s.setLoc v).txtrace = s.txtrace := rfl
@[simp] theorem State.setLoc_loc (s : State) (v : Locals) : (s.setLoc v).loc = v := rfl
@[simp] theorem State.setLoc_script (s : State) (v : Locals) : (s.setLoc v).script = s.script := rfl
@[simp] theorem State.setLoc_draws (s : State) (v : Locals) : (s.setLoc v).draws = s.draws := rfl

@[simp] theorem State.setScript_rxbuf (s : State) (v : List Event) : (s.setScript v).rxbuf = s.rxbuf := rfl
@[simp] theorem State.setScript_idx (s : State) (v : List Event) : (s.setScript v).idx = s.idx := rfl
@[simp] theorem State.setScript_txbuf (s : State) (v : List Event) : (s.setScript v).txbuf = s.txbuf := rfl
@[simp] theorem State.setScript_txlen (s : State) (v : List Event) : (s.setScript v).txlen = s.txlen := rfl
@[simp] theorem State.setScript_txcur (s : State) (v : List Event) : (s.setScript v).txcur = s.txcur := rfl
@[simp] theorem State.setScript_txie (s : State) (v : List Event) : (s.setScript v).txie = s.txie := rfl
@[simp] theorem State.setScript_rxReady (s : State) (v : List Event) : (s.setScript v).rxReady = s.rxReady := rfl
@[simp] theorem State.setScript_rxData (s : State) (v : List Event) : (s.setScript v).rxData = s.rxData := rfl
@[simp] theorem State.setScript_txReady (s : State) (v : List Event) : (s.setScript v).txReady = s.txReady := rfl
@[simp] theorem State.setScript_rxie (s : State) (v : List Event) : (s.setScript v).rxie = s.rxie := rfl
@[simp] theorem State.setScript_txtrace (s : State) (v : List Event) : (s.setScript v).txtrace = s.txtrace := rfl
@[simp] theorem State.setScript_loc (s : State) (v : List Event) : (s.setScript v).loc = s.loc := rfl
@[simp] theorem State.setScript_script (s : State) (v : List Event) : (s.setScript v).script = v := rfl
@[simp] theorem State.setScript_draws (s : State) (v : List Event) : (s.setScript v).draws = s.draws := rfl

@[simp] theorem State.setDraws_rxbuf (s : State) (v : Nat) : (s.setDraws v).rxbuf = s.rxbuf := rfl
@[simp] theorem State.setDraws_idx (s : State) (v : Nat) : (s.setDraws v).idx = s.idx := rfl
@[simp] theorem State.setDraws_txbuf (s : State) (v : Nat) : (s.setDraws v).txbuf = s.txbuf := rfl
@[simp] theorem State.setDraws_txlen (s : State) (v : Nat) : (s.setDraws v).txlen = s.txlen := rfl
@[simp] theorem State.setDraws_txcur (s : State) (v : Nat) : (s.setDraws v).txcur = s.txcur := rfl
@[simp] theorem State.setDraws_txie (s : State) (v : Nat) : (s.setDraws v).txie = s.txie := rfl
@[simp] theorem State.setDraws_rxReady (s : State) (v : Nat) : (s.setDraws v).rxReady = s.rxReady := rfl
@[simp] theorem State.setDraws_rxData (s : State) (v : Nat) : (s.setDraws v).rxData = s.rxData := rfl
@[simp] theorem State.setDraws_txReady (s : State) (v : Nat) : (s.setDraws v).txReady = s.txReady := rfl
@[simp] theorem State.setDraws_rxie (s : State) (v : Nat) : (s.setDraws v).rxie = s.rxie := rfl
@[simp] theorem State.setDraws_txtrace (s : State) (v : Nat) : (s.setDraws v).txtrace = s.txtrace := rfl
@[simp] theorem State.setDraws_loc (s : State) (v : Nat) : (s.setDraws v).loc = s.loc := rfl
@[simp] theorem State.setDraws_script (s : State) (v : Nat) : (s.setDraws v).script = s.script := rfl
@[simp] theorem State.setDraws_draws (s : State) (v : Nat) : (s.setDraws v).draws = v := rfl

@[simp] theorem State.resetWith_rxbuf (b : Bool) : (State.resetWith b).rxbuf = [] := rfl
@[simp] theorem State.resetWith_idx (b : Bool) : (State.resetWith b).idx = 0 := rfl
@[simp] theorem State.resetWith_txbuf (b : Bool) : (State.resetWith b).txbuf = [] := rfl
@[simp] theorem State.resetWith_txlen (b : Bool) : (State.resetWith b).txlen = 0 := rfl
@[simp] theorem State.resetWith_txcur (b : Bool) : (State.resetWith b).txcur = 0 := rfl
@[simp] theorem State.resetWith_txie (b : Bool) : (State.resetWith b).txie = false := rfl
@[simp] theorem State.resetWith_rxReady (b : Bool) : (State.resetWith b).rxReady = false := rfl
@[simp] theorem State.resetWith_rxData (b : Bool) : (State.resetWith b).rxData = 0x00#8 := rfl
@[simp] theorem State.resetWith_txReady (b : Bool) : (State.resetWith b).txReady = b := rfl
@[simp] theorem State.resetWith_rxie (b : Bool) : (State.resetWith b).rxie = false := rfl
@[simp] theorem State.resetWith_txtrace (b : Bool) : (State.resetWith b).txtrace = [] := rfl
@[simp] theorem State.resetWith_loc (b : Bool) : (State.resetWith b).loc = Locals.clear := rfl
@[simp] theorem State.resetWith_script (b : Bool) : (State.resetWith b).script = [] := rfl
@[simp] theorem State.resetWith_draws (b : Bool) : (State.resetWith b).draws = 0 := rfl

@[simp] theorem State.reset_rxbuf : State.reset.rxbuf = [] := rfl
@[simp] theorem State.reset_idx : State.reset.idx = 0 := rfl
@[simp] theorem State.reset_txbuf : State.reset.txbuf = [] := rfl
@[simp] theorem State.reset_txlen : State.reset.txlen = 0 := rfl
@[simp] theorem State.reset_txcur : State.reset.txcur = 0 := rfl
@[simp] theorem State.reset_txie : State.reset.txie = false := rfl
@[simp] theorem State.reset_rxReady : State.reset.rxReady = false := rfl
@[simp] theorem State.reset_rxData : State.reset.rxData = 0x00#8 := rfl
@[simp] theorem State.reset_txReady : State.reset.txReady = Config.txReadyAtLaunch := rfl
@[simp] theorem State.reset_rxie : State.reset.rxie = false := rfl
@[simp] theorem State.reset_txtrace : State.reset.txtrace = [] := rfl
@[simp] theorem State.reset_loc : State.reset.loc = Locals.clear := rfl
@[simp] theorem State.reset_script : State.reset.script = [] := rfl
@[simp] theorem State.reset_draws : State.reset.draws = 0 := rfl

end Sys2Proof.Machine
end

