-- ==== Sys2Proof/Laws/Ops.lean ====
section
/-! SUPPORT. What each shared operation of Machine/Ops.lean can do, said once: sequencing, the laws of
a memory, reads, writes and runs of writes. -/

namespace Sys2Proof.Machine

/-! ### Sequencing -/

@[simp] theorem andThen_next (s : State) (f : State → Result) : andThen (.next s) f = f s := rfl

@[simp] theorem andThen_fault (r : Fault) (f : State → Result) : andThen (.fault r) f = .fault r := rfl

@[simp] theorem andThen_refused (r : Refusal) (f : State → Result) :
    andThen (.refused r) f = .refused r := rfl

theorem andThen_eq_next_iff {o : Result} {f : State → Result} {t : State} :
    andThen o f = .next t ↔ ∃ s, o = .next s ∧ f s = .next t := by
  cases o <;> simp

theorem andThen_assoc (o : Result) (f g : State → Result) :
    andThen (andThen o f) g = andThen o fun s => andThen (f s) g := by
  cases o <;> rfl

/-! ### One memory -/

@[simp] theorem Memory.read_nil (a : Nat) : Memory.read [] a = none := rfl

theorem Memory.read_write_same (m : Memory) (a : Nat) (v : Byte) : (m.write a v).read a = some v := by
  induction m with
  | nil => simp [Memory.write, Memory.read]
  | cons p rest ih =>
    obtain ⟨b, w⟩ := p
    unfold Memory.write
    split
    · simp [Memory.read]
    · split
      · simp [Memory.read]
      · simp_all [Memory.read]

theorem Memory.read_write_other (m : Memory) {a x : Nat} (v : Byte) (h : x ≠ a) :
    (m.write a v).read x = m.read x := by
  induction m with
  | nil => simp [Memory.write, Memory.read, h]
  | cons p rest ih =>
    obtain ⟨b, w⟩ := p
    unfold Memory.write
    split
    · simp [Memory.read, h]
    · split
      · subst_vars; simp [Memory.read, h]
      · simp [Memory.read, ih]

theorem Memory.read_write (m : Memory) (a x : Nat) (v : Byte) :
    (m.write a v).read x = if x = a then some v else m.read x := by
  split
  · subst_vars; exact m.read_write_same _ v
  · exact m.read_write_other v ‹_›

theorem Memory.wfFrom_write {size : Nat} {m : Memory} {lo a : Nat} (v : Byte)
    (h : m.wfFrom size lo = true) (hlo : lo ≤ a) (ha : a < size) :
    (m.write a v).wfFrom size lo = true := by
  induction m generalizing lo with
  | nil => simp [Memory.write, Memory.wfFrom, hlo, ha]
  | cons p rest ih =>
    obtain ⟨b, w⟩ := p
    simp only [Memory.wfFrom, Bool.and_eq_true, decide_eq_true_eq] at h
    obtain ⟨⟨hb, hs⟩, hr⟩ := h
    unfold Memory.write
    split
    · simp [Memory.wfFrom, hlo, ha, hs, hr]; omega
    · split
      · subst_vars; simp [Memory.wfFrom, hb, hs, hr]
      · simp [Memory.wfFrom, hb, hs, ih hr (by omega)]

/-- A write inside the space keeps the canonical form. -/
theorem Memory.wf_write {size : Nat} {m : Memory} {a : Nat} (v : Byte) (h : m.wf size = true)
    (ha : a < size) : (m.write a v).wf size = true :=
  Memory.wfFrom_write v h (Nat.zero_le a) ha

@[simp] theorem Memory.wf_nil (size : Nat) : Memory.wf size [] = true := rfl

/-- The memory with consecutive cells written from `a` on. -/
def Memory.writeSeq : Memory → Nat → List Byte → Memory
  | m, _, [] => m
  | m, a, v :: vs => Memory.writeSeq (m.write a v) (a + 1) vs

theorem Memory.read_writeSeq (vs : List Byte) (m : Memory) (a x : Nat) :
    (m.writeSeq a vs).read x =
      if a ≤ x ∧ x < a + vs.length then vs[x - a]? else m.read x := by
  induction vs generalizing m a with
  | nil => simp [Memory.writeSeq]
  | cons v vs ih =>
    rw [Memory.writeSeq, ih, Memory.read_write]
    simp only [List.length_cons]
    by_cases hx : x = a
    · subst hx; simp
    · by_cases hr : a + 1 ≤ x ∧ x < a + 1 + vs.length
      · have e : x - a = (x - (a + 1)) + 1 := by omega
        rw [if_pos hr, if_pos (by omega), e, List.getElem?_cons_succ]
      · rw [if_neg hr, if_neg hx, if_neg (by omega)]

theorem Memory.wf_writeSeq {size : Nat} (vs : List Byte) {m : Memory} {a : Nat}
    (h : m.wf size = true) (ha : a + vs.length ≤ size) : (m.writeSeq a vs).wf size = true := by
  induction vs generalizing m a with
  | nil => exact h
  | cons v vs ih =>
    simp only [List.length_cons] at ha
    exact ih (Memory.wf_write v h (by omega)) (by omega)

/-! ### The two spaces -/

@[simp] theorem State.mem_rxbuf (s : State) : s.mem .rxbuf = s.rxbuf := rfl
@[simp] theorem State.mem_txbuf (s : State) : s.mem .txbuf = s.txbuf := rfl
@[simp] theorem State.setMem_rxbuf (s : State) (m : Memory) : s.setMem .rxbuf m = s.setRxbuf m := rfl
@[simp] theorem State.setMem_txbuf (s : State) (m : Memory) : s.setMem .txbuf m = s.setTxbuf m := rfl
@[simp] theorem State.mem_setMem (s : State) (sp : Space) (m : Memory) : (s.setMem sp m).mem sp = m := by
  cases sp <;> rfl
@[simp] theorem State.setMem_mem (s : State) (sp : Space) : s.setMem sp (s.mem sp) = s := by
  cases sp <;> rfl
@[simp] theorem State.setMem_setMem (s : State) (sp : Space) (m n : Memory) :
    (s.setMem sp m).setMem sp n = s.setMem sp n := by
  cases sp <;> rfl
@[simp] theorem Space.size_rxbuf : Space.size .rxbuf = Config.N := rfl
@[simp] theorem Space.size_txbuf : Space.size .txbuf = Config.TXCAP := rfl

theorem memRead_ok {sp : Space} {a : Nat} {s : State} {v : Byte} (ha : a < sp.size)
    (h : (s.mem sp).read a = some v) : memRead sp a s = .ok v := by
  simp [memRead, ha, h]

/-- Everything `memRead` can answer. -/
theorem memRead_cases (sp : Space) (a : Nat) (s : State) :
    (∃ v, a < sp.size ∧ (s.mem sp).read a = some v ∧ memRead sp a s = .ok v) ∨
    memRead sp a s = .error (.readUnwrittenCell sp a) := by
  unfold memRead
  by_cases ha : a < sp.size
  · cases h : (s.mem sp).read a <;> simp [ha]
  · simp [ha]

/-- A write inside the space writes the cell. -/
theorem memWrite_inside {sp : Space} {a : Nat} (v : Byte) (s : State) (ha : a < sp.size) :
    memWrite sp a v s = s.setMem sp ((s.mem sp).write a v) := by
  simp [memWrite, ha]

/-- Every write keeps the canonical form. -/
theorem wf_memWrite (sp : Space) (a : Nat) (v : Byte) (s : State)
    (h : (s.mem sp).wf sp.size = true) : ((memWrite sp a v s).mem sp).wf sp.size = true := by
  unfold memWrite
  split
  · rw [State.mem_setMem]
    exact Memory.wf_write v h ‹_›
  · exact h

/-- So does every run of writes. -/
theorem wf_memWriteSeq (sp : Space) (vs : List Byte) (a : Nat) (s : State)
    (h : (s.mem sp).wf sp.size = true) : ((memWriteSeq sp a vs s).mem sp).wf sp.size = true := by
  induction vs generalizing a s with
  | nil => exact h
  | cons v vs ih => exact ih _ _ (wf_memWrite sp a v s h)

/-- A run of writes inside the space writes its cells. -/
theorem memWriteSeq_inside {sp : Space} (vs : List Byte) (a : Nat) (s : State)
    (ha : a + vs.length ≤ sp.size) :
    memWriteSeq sp a vs s = s.setMem sp ((s.mem sp).writeSeq a vs) := by
  induction vs generalizing a s with
  | nil => simp [memWriteSeq, Memory.writeSeq]
  | cons v vs ih =>
    simp only [List.length_cons] at ha
    rw [memWriteSeq, memWrite_inside v s (by omega), ih _ _ (by omega)]
    simp [Memory.writeSeq]

end Sys2Proof.Machine
end

