-- ==== Sys2Proof/Laws/Effects.lean ====
section
/-! SUPPORT. One spec lemma per operation: the state each leaves, in closed form. Later proofs cite
these and do not unfold the operations. -/

namespace Sys2Proof.Machine

@[simp] theorem room_lt {n : Nat} (h : n < Config.N - 1) : n < Config.N := by omega

/-! ### The RX arms -/

@[simp] theorem respond_eq (q : List Byte) (s : State) :
    respond q s = s.setLoc { s.loc with seq := q, staged := true } := rfl

@[simp] theorem execEnter_eq (s : State) : execEnter s = .next (respond seqEnter (s.setIdx 0)) := rfl

theorem enterWith_true_eq {s : State} (h : s.idx < Config.N) :
    enterWith true s =
      .next (respond seqEnter ((s.setRxbuf (s.rxbuf.write s.idx Config.NUL)).setIdx 0)) := by
  simp [enterWith, memWrite_inside _ _ (show s.idx < Space.size .rxbuf from h)]

theorem erase_eq (s : State) :
    erase s = .next (if s.idx = 0 then s else respond seqErase (s.setIdx (s.idx - 1))) := by
  unfold erase State.lineEmpty
  by_cases h : s.idx = 0 <;> simp [h]

theorem execStore_eq (c : Byte) (s : State) :
    execStore c s = .next (if s.idx < Config.N - 1 then
      respond (seqEcho c) ((s.setRxbuf (s.rxbuf.write s.idx c)).setIdx (s.idx + 1)) else s) := by
  unfold execStore State.lineHasRoom
  by_cases h : s.idx < Config.N - 1
  · simp [h, memWrite_inside _ _ (show s.idx < Space.size .rxbuf from room_lt h)]
  · simp [h]

/-- The meaning the RX reaction runs is `exec` of the decoded byte. -/
theorem runByte_eq_exec (c : Byte) (s : State) : runByte c s = exec (decodeByte c) s := by
  unfold runByte decodeByte
  cases classify c
  · rfl
  · dsimp only; split <;> rfl
  · rfl

/-- The receive buffer after byte `b` (40_rx_reaction.md R66). -/
def nextRxbuf (s : State) (b : Byte) : Memory :=
  match classify b with
  | .enter => s.rxbuf
  | .erase => s.rxbuf
  | .other => if s.idx < Config.N - 1 then s.rxbuf.write s.idx b else s.rxbuf

/-- Every byte's arm ends in a next state: the index, the buffer, and the transients that say what to
stage. -/
theorem runByte_eq (b : Byte) (s : State) (hst : s.loc.staged = false) :
    runByte b s = .next (((s.setRxbuf (nextRxbuf s b)).setIdx (nextIdx s.idx b)).setLoc
      (if response s.idx b = [] then s.loc
        else { s.loc with seq := response s.idx b, staged := true })) := by
  have hs : s.loc = { s.loc with staged := false } := by rw [← hst]
  unfold runByte nextRxbuf nextIdx response
  cases classify b
  · simp [seqEnter]; rfl
  · have h1 : execEraseBs s = erase s := rfl
    have h2 : execEraseDel s = erase s := rfl
    simp only [h1, h2, ite_self, erase_eq]
    by_cases h : s.idx = 0
    · simp only [h, if_true]
      congr 1
      ext1 <;> simp [h]
    · simp [h, seqErase]; rfl
  · simp only [execStore_eq]
    by_cases h : s.idx < Config.N - 1
    · simp [h, seqEcho]
    · simp only [h, if_false]
      congr 1

theorem response_length (idx : Nat) (b : Byte) : (response idx b).length ≤ Config.TXCAP := by
  unfold response
  cases classify b
  · simp [seqEnter, Config.TXCAP]
  · dsimp only; split <;> simp [seqErase, Config.TXCAP]
  · dsimp only; split <;> simp [seqEcho, Config.TXCAP]

/-! ### STAGE -/

/-- The state STAGE leaves (40_rx_reaction.md R64). -/
def stagedState (seq : List Byte) (s : State) : State :=
  (((s.setTxbuf (s.txbuf.writeSeq 0 seq)).setTxlen seq.length).setTxcur 0).setTxie true

theorem execStage_eq {seq : List Byte} (s : State) (h : seq.length ≤ Config.TXCAP) :
    execStage seq s = .next (stagedState seq s) := by
  simp [execStage, execRiEnableTransmitInterrupt, stagedState,
    memWriteSeq_inside seq 0 s (show 0 + seq.length ≤ Space.size .txbuf by simpa using h)]

/-! ### The RX reaction -/

/-- The state the RX reaction leaves (40_rx_reaction.md R66): with a response, it is staged; without,
the byte is consumed and nothing else changes. -/
def rxState (s : State) : State :=
  let b := s.rxData
  let q := response s.idx b
  let s1 := ((s.setRxReady false).setRxbuf (nextRxbuf s b)).setIdx (nextIdx s.idx b)
  if q = [] then s1.setLoc { s.loc with c := b, staged := false }
  else stagedState q (s1.setLoc { s.loc with c := b, staged := true, seq := q })

theorem rxReaction_eq {s : State} (h : s.rxReady = true) : rxReaction s = .next (rxState s) := by
  unfold rxReaction execRiReadReceivedByte
  simp only [h, if_true, andThen_next]
  rw [runByte_eq _ _ (by simp)]
  simp only [State.setLoc_loc, State.setLoc_idx, State.setRxReady_loc, State.setRxReady_idx,
    andThen_next]
  unfold rxState
  by_cases hq : response s.idx s.rxData = []
  · simp only [hq, if_true]
    rfl
  · simp only [hq, if_false, if_true]
    rw [execStage_eq _ (response_length _ _)]
    rfl

theorem rxReaction_fault {s : State} (h : s.rxReady = false) :
    rxReaction s = .fault .readWithoutByte := by
  simp [rxReaction, execRiReadReceivedByte, h]

theorem execRxReact_eq (s : State) :
    execRxReact s = .next (if s.rxReady then rxState s else s) := by
  unfold execRxReact
  cases h : s.rxReady
  · simp
  · simp [rxReaction_eq h]

section
variable (s : State)

@[simp] theorem rxState_idx : (rxState s).idx = nextIdx s.idx s.rxData := by
  unfold rxState stagedState; dsimp only; split <;> rfl
@[simp] theorem rxState_rxbuf : (rxState s).rxbuf = nextRxbuf s s.rxData := by
  unfold rxState stagedState; dsimp only; split <;> rfl
@[simp] theorem rxState_rxReady : (rxState s).rxReady = false := by
  unfold rxState stagedState; dsimp only; split <;> rfl
@[simp] theorem rxState_rxData : (rxState s).rxData = s.rxData := by
  unfold rxState stagedState; dsimp only; split <;> rfl
@[simp] theorem rxState_txReady : (rxState s).txReady = s.txReady := by
  unfold rxState stagedState; dsimp only; split <;> rfl
@[simp] theorem rxState_rxie : (rxState s).rxie = s.rxie := by
  unfold rxState stagedState; dsimp only; split <;> rfl
@[simp] theorem rxState_txtrace : (rxState s).txtrace = s.txtrace := by
  unfold rxState stagedState; dsimp only; split <;> rfl
@[simp] theorem rxState_script : (rxState s).script = s.script := by
  unfold rxState stagedState; dsimp only; split <;> rfl
@[simp] theorem rxState_draws : (rxState s).draws = s.draws := by
  unfold rxState stagedState; dsimp only; split <;> rfl
@[simp] theorem rxState_sample : (rxState s).loc.sample = s.loc.sample := by
  unfold rxState stagedState; dsimp only; split <;> rfl
@[simp] theorem rxState_c : (rxState s).loc.c = s.rxData := by
  unfold rxState stagedState; dsimp only; split <;> rfl

end

theorem rxState_staging (s : State) :
    (response s.idx s.rxData = [] ∧ (rxState s).txbuf = s.txbuf ∧ (rxState s).txlen = s.txlen ∧
      (rxState s).txcur = s.txcur ∧ (rxState s).txie = s.txie) ∨
    (response s.idx s.rxData ≠ [] ∧
      (rxState s).txbuf = s.txbuf.writeSeq 0 (response s.idx s.rxData) ∧
      (rxState s).txlen = (response s.idx s.rxData).length ∧
      (rxState s).txcur = 0 ∧ (rxState s).txie = true) := by
  unfold rxState stagedState
  by_cases h : response s.idx s.rxData = [] <;> simp [h]

/-! ### The TX reaction -/

/-- The state the TX reaction leaves when it sends `b` (41_tx_drain.md R71). -/
def txState (b : Byte) (s : State) : State :=
  (((s.setTxReady false).setTxtrace (s.txtrace ++ [b])).setTxcur (s.txcur + 1)).setTxie
    (if s.txcur + 1 = s.txlen then false else s.txie)

theorem txReaction_eq {s : State} {b : Byte} (hr : s.txReady = true) (hc : s.txcur < Config.TXCAP)
    (hb : s.txbuf.read s.txcur = some b) : txReaction s = .next (txState b s) := by
  have hm : memRead .txbuf s.txcur s = .ok b := memRead_ok (sp := .txbuf) hc hb
  unfold txReaction execRiWriteTransmitByte execRiDisableTransmitInterrupt txState
  simp only [hm, hr, if_true, andThen_next]
  by_cases h : s.txcur + 1 = s.txlen
  · simp [h]
  · simp [h]; rfl

/-- Everything the TX reaction can answer. -/
theorem txReaction_cases {s : State} (hr : s.txReady = true) :
    (∃ b, s.txbuf.read s.txcur = some b ∧ s.txcur < Config.TXCAP ∧
      txReaction s = .next (txState b s)) ∨ (∃ r, txReaction s = .fault r) := by
  rcases memRead_cases .txbuf s.txcur s with ⟨b, hc, hb, _⟩ | e
  · exact .inl ⟨b, hb, hc, txReaction_eq hr hc hb⟩
  · exact .inr ⟨_, by unfold txReaction; rw [e]⟩

/-- TXDRAIN when its guard holds and the cell is written. -/
theorem execTxDrain_send {s : State} {b : Byte} (hr : s.txReady = true) (h : s.txcur < s.txlen)
    (hc : s.txcur < Config.TXCAP) (hb : s.txbuf.read s.txcur = some b) :
    execTxDrain s = .next (txState b s) := by
  rw [execTxDrain, if_pos (by simp [hr, State.pending, h]), txReaction_eq hr hc hb]

/-- TXDRAIN when its guard is false (41_tx_drain.md R70). -/
theorem execTxDrain_none {s : State} (h : s.txReady = false ∨ s.txlen ≤ s.txcur) :
    execTxDrain s = .next s := by
  rw [execTxDrain, if_neg]
  rcases h with h | h <;> simp [h, State.pending]

/-! ### `on_interrupt` -/

/-- The TX reaction does not look at the transients. -/
theorem txReaction_setLoc (s : State) (l : Locals) :
    txReaction (s.setLoc l) = andThen (txReaction s) fun t => .next (t.setLoc l) := by
  have hm : memRead .txbuf (s.setLoc l).txcur (s.setLoc l) = memRead .txbuf s.txcur s := rfl
  unfold txReaction execRiWriteTransmitByte execRiDisableTransmitInterrupt
  rw [hm]
  cases memRead .txbuf s.txcur s
  · rfl
  · by_cases hr : s.txReady = true
    · by_cases h : s.txcur + 1 = s.txlen <;> simp [hr, h] <;> rfl
    · simp [hr]

/-- What the RX reaction does beside the transients does not depend on them. -/
theorem rxState_setLoc (s : State) (l : Locals) :
    rxState (s.setLoc l) = (rxState s).setLoc (rxState (s.setLoc l)).loc := by
  have hn : nextRxbuf (s.setLoc l) s.rxData = nextRxbuf s s.rxData := rfl
  unfold rxState stagedState
  simp only [State.setLoc_idx, State.setLoc_rxData, hn]
  by_cases h : response s.idx s.rxData = [] <;> simp only [h, if_true, if_false] <;> rfl

/-- The second half of an invocation: the TX reaction if its guard holds, then the end. -/
def finishInvocation (s : State) : Result :=
  andThen (execTxDrain s) fun t => .next (t.setLoc Locals.clear)

theorem finishInvocation_setLoc (s : State) (l : Locals) :
    finishInvocation (s.setLoc l) = finishInvocation s := by
  unfold finishInvocation execTxDrain
  have hp : (s.setLoc l).pending = s.pending := rfl
  rw [hp, State.setLoc_txReady, txReaction_setLoc]
  split
  · cases txReaction s <;> rfl
  · rfl

/-- An invocation: the RX reaction if a byte waits, then the rest; the sample is as good as the live
flags, since the RX reaction leaves `tx_ready` alone. -/
theorem execOnInterrupt_eq (s : State) :
    execOnInterrupt s = finishInvocation (if s.rxReady then rxState s else s) := by
  have hl : ∀ l m : Locals, (s.setLoc l).setLoc m = s.setLoc m := fun _ _ => rfl
  have hst : (s.setLoc Locals.clear).status = ⟨s.rxReady, s.txReady⟩ := rfl
  unfold execOnInterrupt execRiReadStatus enterHandler leaveHandler
  simp only [andThen_next, State.setLoc_loc, hst, hl]
  cases h : s.rxReady
  · simp only [Bool.false_eq_true, if_false, andThen_next]
    rw [← finishInvocation_setLoc s ⟨⟨false, s.txReady⟩, Locals.clear.c, Locals.clear.staged,
      Locals.clear.seq⟩]
    rfl
  · simp only [if_true]
    generalize hL : Locals.mk ⟨true, s.txReady⟩ Locals.clear.c Locals.clear.staged
      Locals.clear.seq = l
    have e : (rxState (s.setLoc l)).loc.sample.txReady = (rxState (s.setLoc l)).txReady := by
      simp [← hL]
    rw [rxReaction_eq (s := s.setLoc l) h, andThen_next, e, ← finishInvocation_setLoc (rxState s)
      (rxState (s.setLoc l)).loc, ← rxState_setLoc]
    rfl

theorem finishInvocation_send {s : State} {b : Byte} (hr : s.txReady = true)
    (h : s.txcur < s.txlen) (hc : s.txcur < Config.TXCAP) (hb : s.txbuf.read s.txcur = some b) :
    finishInvocation s = .next ((txState b s).setLoc Locals.clear) := by
  rw [finishInvocation, execTxDrain_send hr h hc hb, andThen_next]

theorem finishInvocation_none {s : State} (h : s.txReady = false ∨ s.txlen ≤ s.txcur) :
    finishInvocation s = .next (s.setLoc Locals.clear) := by
  rw [finishInvocation, execTxDrain_none h, andThen_next]

/-- Everything the second half of an invocation can end in. -/
theorem finishInvocation_eq_next {s t : State} (h : finishInvocation s = .next t) :
    ((s.txReady = false ∨ s.txlen ≤ s.txcur) ∧ t = s.setLoc Locals.clear) ∨
    (s.txReady = true ∧ s.txcur < s.txlen ∧ s.txcur < Config.TXCAP ∧
      ∃ b, s.txbuf.read s.txcur = some b ∧ t = (txState b s).setLoc Locals.clear) := by
  by_cases hg : s.txReady = false ∨ s.txlen ≤ s.txcur
  · rw [finishInvocation_none hg] at h
    cases h
    exact .inl ⟨hg, rfl⟩
  · have hr : s.txReady = true := by simp at hg; exact hg.1
    have hp : s.txcur < s.txlen := by simp at hg; exact hg.2
    rcases txReaction_cases hr with ⟨b, hb, hc, _⟩ | ⟨r, e⟩
    · rw [finishInvocation_send hr hp hc hb] at h
      cases h
      exact .inr ⟨hr, hp, hc, b, hb, rfl⟩
    · rw [finishInvocation, execTxDrain, if_pos (by simp [hr, State.pending, hp]), e] at h
      cases h

end Sys2Proof.Machine
end

