-- ==== Sys2Proof/Laws/Pending.lean ====
section
/-! SUPPORT. The pending bytes and the current line: how each definition of Safety.lean moves. -/

namespace Sys2Proof.Machine

theorem drop_range_eq (n k : Nat) : (List.range n).drop k = List.range' k (n - k) := by
  rw [List.range_eq_range', List.drop_range']
  simp

theorem State.pendingBytes_eq (s : State) :
    s.pendingBytes = (List.range' s.txcur (s.txlen - s.txcur)).filterMap s.txbuf.read := by
  rw [State.pendingBytes, drop_range_eq]

theorem State.pendingBytes_nil {s : State} (h : s.txlen ≤ s.txcur) : s.pendingBytes = [] := by
  rw [s.pendingBytes_eq, Nat.sub_eq_zero_of_le h]
  rfl

/-- The pending bytes depend on the staging buffer, its length and its cursor alone. -/
theorem State.pendingBytes_congr {s t : State} (h1 : t.txbuf = s.txbuf) (h2 : t.txlen = s.txlen)
    (h3 : t.txcur = s.txcur) : t.pendingBytes = s.pendingBytes := by
  rw [State.pendingBytes, State.pendingBytes, h1, h2, h3]

/-- The next byte to send heads the pending bytes. -/
theorem State.pendingBytes_cons {s t : State} {b : Byte} (h : s.txcur < s.txlen)
    (hb : s.txbuf.read s.txcur = some b) (h1 : t.txbuf = s.txbuf) (h2 : t.txlen = s.txlen)
    (h3 : t.txcur = s.txcur + 1) : s.pendingBytes = b :: t.pendingBytes := by
  have e : s.txlen - s.txcur = (s.txlen - (s.txcur + 1)) + 1 := by omega
  rw [s.pendingBytes_eq, t.pendingBytes_eq, e, h1, h2, h3, List.range'_succ]
  simp [hb]

theorem filterMap_range'_eq_drop {α : Type} {q : List α} {f : Nat → Option α} (m k : Nat)
    (hl : k + m = q.length) (hf : ∀ i, k ≤ i → i < q.length → f i = q[i]?) :
    (List.range' k m).filterMap f = q.drop k := by
  induction m generalizing k with
  | zero => simp [List.drop_eq_nil_of_le (show q.length ≤ k by omega)]
  | succ m ih =>
    have hk : k < q.length := by omega
    rw [List.range'_succ, List.drop_eq_getElem_cons hk, List.filterMap_cons, hf k le_rfl hk,
      List.getElem?_eq_getElem hk]
    simp only [List.cons.injEq, true_and]
    exact ih (k + 1) (by omega) fun i hi => hf i (by omega)

/-- With `q` in the first cells, the cursor at `k` and the length that of `q`, what is pending is `q`
without its first `k` bytes. -/
theorem State.pendingBytes_of_cells {s : State} {q : List Byte} (hq : s.txlen = q.length)
    (hk : s.txcur ≤ q.length) (hc : ∀ i, i < q.length → s.txbuf.read i = q[i]?) :
    s.pendingBytes = q.drop s.txcur := by
  rw [s.pendingBytes_eq, hq]
  exact filterMap_range'_eq_drop _ _ (by omega) fun i _ hi => hc i hi

theorem read_writeSeq_zero (m : Memory) (q : List Byte) {i : Nat} (h : i < q.length) :
    (m.writeSeq 0 q).read i = q[i]? := by
  simp [Memory.read_writeSeq, h]

theorem filterMap_length_of_isSome {f : Nat → Option Byte} (m k : Nat)
    (h : ∀ i, k ≤ i → i < k + m → (f i).isSome) : ((List.range' k m).filterMap f).length = m := by
  induction m generalizing k with
  | zero => rfl
  | succ m ih =>
    obtain ⟨v, hv⟩ := Option.isSome_iff_exists.mp (h k le_rfl (by omega))
    rw [List.range'_succ, List.filterMap_cons, hv]
    simp only [List.length_cons]
    rw [ih (k + 1) fun i h1 h2 => h i (by omega) (by omega)]

theorem State.pendingBytes_length {s : State} (h : s.inv4) (h2 : s.txcur ≤ s.txlen) :
    s.pendingBytes.length = s.txlen - s.txcur := by
  rw [s.pendingBytes_eq]
  exact filterMap_length_of_isSome _ _ fun i _ hi => h i (by omega)

/-- What the RX reaction stages: the response, from cell 0 on, all of it pending. -/
theorem rxState_cells {s : State} (h : response s.idx s.rxData ≠ []) :
    (rxState s).txlen = (response s.idx s.rxData).length ∧ (rxState s).txcur = 0 ∧
    (rxState s).txie = true ∧
    (∀ i, i < (response s.idx s.rxData).length →
      (rxState s).txbuf.read i = (response s.idx s.rxData)[i]?) ∧
    (rxState s).pendingBytes = response s.idx s.rxData := by
  rcases rxState_staging s with ⟨hq, _⟩ | ⟨_, h1, h2, h3, h4⟩
  · exact absurd hq h
  · have hc : ∀ i, i < (response s.idx s.rxData).length →
        (rxState s).txbuf.read i = (response s.idx s.rxData)[i]? := by
      intro i hi
      rw [h1]
      exact read_writeSeq_zero _ _ hi
    refine ⟨h2, h3, h4, hc, ?_⟩
    rw [State.pendingBytes_of_cells h2 (by omega) hc, h3]
    rfl

/-- The second half of an invocation moves only what TXDRAIN moves, and the transients. -/
theorem finishInvocation_keeps {u t : State} (h : finishInvocation u = .next t) :
    t.rxbuf = u.rxbuf ∧ t.idx = u.idx ∧ t.rxReady = u.rxReady ∧ t.rxData = u.rxData ∧
    t.rxie = u.rxie ∧ t.script = u.script ∧ t.draws = u.draws ∧ t.txbuf = u.txbuf ∧
    t.txlen = u.txlen ∧ t.loc = Locals.clear := by
  rcases finishInvocation_eq_next h with ⟨_, rfl⟩ | ⟨_, _, _, b, _, rfl⟩ <;> simp [txState]

/-- It sends from what is pending, so what has been emitted stays. -/
theorem finishInvocation_emitted {u t : State} (h : finishInvocation u = .next t) :
    t.emitted = u.emitted := by
  rcases finishInvocation_eq_next h with ⟨_, rfl⟩ | ⟨_, hp, _, b, hb, rfl⟩
  · rfl
  · have := State.pendingBytes_cons (t := (txState b u).setLoc Locals.clear) hp hb rfl rfl rfl
    rw [State.emitted, State.emitted, this]
    simp [txState]

/-- INV2 and INV4 pass through the RX reaction. -/
theorem rxState_inv24 {s : State} (h2 : s.inv2) (h4 : s.inv4) :
    (rxState s).inv2 ∧ (rxState s).inv4 := by
  rcases rxState_staging s with ⟨_, e1, e2, e3, _⟩ | ⟨_, e1, e2, e3, _⟩
  · refine ⟨⟨by rw [e2, e3]; exact h2.1, by rw [e2]; exact h2.2⟩, fun i hi => ?_⟩
    rw [e1]
    rw [e2] at hi
    exact h4 i hi
  · refine ⟨⟨by omega, by rw [e2]; exact response_length _ _⟩, fun i hi => ?_⟩
    rw [e2] at hi
    rw [e1, read_writeSeq_zero _ _ hi]
    simp [hi]

theorem finishInvocation_next {u : State} (h2 : u.inv2) (h4 : u.inv4) :
    ∃ t, finishInvocation u = .next t := by
  by_cases hg : u.txReady = false ∨ u.txlen ≤ u.txcur
  · exact ⟨_, finishInvocation_none hg⟩
  · simp only [not_or, Bool.not_eq_false, not_le] at hg
    obtain ⟨b, hb⟩ := Option.isSome_iff_exists.mp (h4 _ hg.2)
    exact ⟨_, finishInvocation_send hg.1 hg.2 (Nat.lt_of_lt_of_le hg.2 h2.2) hb⟩

/-- Under INV2 and INV4 an invocation ends in a next state. -/
theorem execOnInterrupt_next {s : State} (h2 : s.inv2) (h4 : s.inv4) :
    ∃ t, execOnInterrupt s = .next t := by
  rw [execOnInterrupt_eq]
  split
  · exact finishInvocation_next (rxState_inv24 h2 h4).1 (rxState_inv24 h2 h4).2
  · exact finishInvocation_next h2 h4

/-! ### The line -/

theorem State.line_length {s : State} (h : s.lineWritten) : s.line.length = s.idx := by
  rw [State.line, List.range_eq_range']
  exact filterMap_length_of_isSome _ _ fun i _ hi => h i (by omega)

theorem filterMap_range_congr {f g : Nat → Option Byte} {n : Nat} (h : ∀ i, i < n → f i = g i) :
    (List.range n).filterMap f = (List.range n).filterMap g :=
  List.filterMap_congr fun i hi => h i (List.mem_range.mp hi)

theorem filterMap_range_succ {f : Nat → Option Byte} {n : Nat} {b : Byte} (h : f n = some b) :
    (List.range (n + 1)).filterMap f = (List.range n).filterMap f ++ [b] := by
  rw [List.range_succ, List.filterMap_append]
  simp [h]

/-- The line after a byte's arm is the edited line. -/
theorem State.line_next {s t : State} (h : s.lineWritten) (b : Byte)
    (h1 : t.rxbuf = nextRxbuf s b) (h2 : t.idx = nextIdx s.idx b) :
    t.line = editLine s.line b ∧ t.lineWritten := by
  have hl := State.line_length h
  have hw : t.line = (List.range (nextIdx s.idx b)).filterMap (nextRxbuf s b).read := by
    rw [State.line, h1, h2]
  unfold State.lineWritten
  rw [hw, h1, h2]
  unfold nextRxbuf nextIdx editLine
  cases classify b
  · simp
  · dsimp only
    refine ⟨?_, fun i hi => h i (by omega)⟩
    cases hi : s.idx with
    | zero => simp [State.line, hi]
    | succ n =>
      obtain ⟨v, hv⟩ := Option.isSome_iff_exists.mp (h n (by omega))
      rw [State.line, hi, filterMap_range_succ hv]
      simp
  · dsimp only
    rw [hl]
    by_cases hr : s.idx < Config.N - 1
    · simp only [hr, if_true]
      refine ⟨?_, fun i hi => ?_⟩
      · rw [filterMap_range_succ (Memory.read_write_same _ _ _)]
        rw [filterMap_range_congr fun i hi => Memory.read_write_other _ _ (by omega)]
        rfl
      · rw [Memory.read_write]
        split
        · rfl
        · exact h i (by omega)
    · simp only [hr, if_false]
      exact ⟨rfl, h⟩

end Sys2Proof.Machine
end

