-- ==== Sys2Proof/Laws/PerInstr.lean ====
section
/-! SUPPORT. The per-instruction family DecodeEncode: a well-formed instruction that has a word is what
its word decodes to. -/

namespace Sys2Proof.Laws.DecodeEncode

/-- Decoding the word of a well-formed instruction gives it back; the rows without a bit pattern have
no word (30_encoding.md R59). -/
def Statement (i : Instr) : Prop :=
  i.wellFormed = true → ∀ w, encode i = some w → decode w = .ok i

theorem enter : Statement .enter := by
  intro _ w h
  cases h
  rfl

theorem eraseBs : Statement .eraseBs := by
  intro _ w h
  cases h
  rfl

theorem eraseDel : Statement .eraseDel := by
  intro _ w h
  cases h
  rfl

theorem store (c : Byte) : Statement (.store c) := by
  intro hw w h
  cases h
  exact congrArg Except.ok (decodeByte_store hw)

theorem rxReact : Statement .rxReact := by
  intro _ w h
  cases h
  rfl

theorem txDrain : Statement .txDrain := by
  intro _ w h
  cases h
  rfl

theorem onInterrupt : Statement .onInterrupt := by
  intro _ w h
  cases h

theorem stage (seq : List Byte) : Statement (.stage seq) := by
  intro _ w h
  cases h

theorem riReadStatus : Statement .riReadStatus := by
  intro _ w h
  cases h

theorem riReadReceivedByte : Statement .riReadReceivedByte := by
  intro _ w h
  cases h

theorem riWriteTransmitByte (b : Byte) : Statement (.riWriteTransmitByte b) := by
  intro _ w h
  cases h

theorem riEnableTransmitInterrupt : Statement .riEnableTransmitInterrupt := by
  intro _ w h
  cases h

theorem riDisableTransmitInterrupt : Statement .riDisableTransmitInterrupt := by
  intro _ w h
  cases h

theorem envRxArrive (b : Byte) : Statement (.envRxArrive b) := by
  intro _ w h
  cases h

theorem envTxDone : Statement .envTxDone := by
  intro _ w h
  cases h

theorem fgIdle : Statement .fgIdle := by
  intro _ w h
  cases h

theorem reset : Statement .reset := by
  intro _ w h
  cases h

end Sys2Proof.Laws.DecodeEncode
end

