-- ==== Sys2Proof/Laws/Step.lean ====
section
/-! SUPPORT. What one step does, agent by agent, and how runs are taken step by step. -/

namespace Sys2Proof.Machine

theorem exec_onInterrupt (s : State) : exec .onInterrupt s = execOnInterrupt s := rfl

theorem step_script {s : State} {e : Event} {rest : List Event} (h : s.script = e :: rest) :
    step s = perform e (s.setScript rest) := by
  simp [step, nextEvent, h]

theorem nextEvent_script {s : State} {e : Event} {rest : List Event} (h : s.script = e :: rest) :
    nextEvent s = (e, s.setScript rest) := by
  simp [nextEvent, h]

/-- The state an event is performed on differs from the state itself in the script or the draws
alone. -/
theorem nextEvent_state (s : State) :
    (∃ rest, (nextEvent s).2 = s.setScript rest) ∨
      (nextEvent s).2 = s.setDraws (s.draws + 1) := by
  unfold nextEvent
  split
  · exact .inl ⟨_, rfl⟩
  · exact .inr rfl

/-- Everything `perform` can do: the agent's step if it is enabled, nothing otherwise. -/
theorem perform_eq (e : Event) (s : State) :
    perform e s = if eventEnabled e s then act e s else .next s := rfl

theorem State.readyToLaunch_iff {s : State} : s.readyToLaunch = true ↔ s.atReset :=
  decide_eq_true_iff

theorem State.atReset_reset (es : List Event) : (State.reset.setScript es).atReset :=
  ⟨rfl, rfl, rfl, rfl, rfl, rfl, rfl, rfl⟩

/-- Launch, in the reset state. -/
theorem step_launch {s : State} {rest : List Event} (h : s.script = .launch :: rest)
    (hr : s.atReset) : step s = .next ((s.setScript rest).setRxie true) := by
  have he : eventEnabled .launch (s.setScript rest) = true :=
    State.readyToLaunch_iff.mpr hr
  rw [step_script h, perform_eq, if_pos he]
  rfl

/-- Launch, anywhere else. -/
theorem step_launch_idle {s : State} {rest : List Event} (h : s.script = .launch :: rest)
    (hr : ¬ s.atReset) : step s = .next (s.setScript rest) := by
  rw [step_script h, perform_eq, if_neg]
  intro hc
  exact hr (State.readyToLaunch_iff.mp hc)

/-- Everything an arrival can do. -/
theorem rxArriveWith_cases (p : RxOverrun) (b : Byte) (s : State) :
    (s.rxReady = false ∧ rxArriveWith p b s = .next ((s.setRxData b).setRxReady true)) ∨
    (s.rxReady = true ∧ (rxArriveWith p b s = .next s ∨
      rxArriveWith p b s = .next (s.setRxData b) ∨
      ∃ d, (d = s.rxData ∨ d = b) ∧
        rxArriveWith p b s = .next ((s.setRxData d).setDraws (s.draws + 1)))) := by
  unfold rxArriveWith
  cases h : s.rxReady
  · exact .inl ⟨rfl, by simp⟩
  · refine .inr ⟨rfl, ?_⟩
    cases p
    · exact .inl (by simp)
    · exact .inl (by simp)
    · exact .inr (.inl (by simp))
    · refine .inr (.inr ⟨if Config.overrunReplaces s.draws then b else s.rxData, ?_, by simp⟩)
      split
      · exact .inr rfl
      · exact .inl rfl

/-- The fields an arrival may move. -/
theorem rxArriveWith_next (p : RxOverrun) (b : Byte) (s : State) :
    ∃ r d n, rxArriveWith p b s =
      .next (((s.setRxData d).setRxReady r).setDraws n) ∧ (s.rxReady = true → r = true) ∧
      (s.rxReady = false → r = true ∧ d = b ∧ n = s.draws) := by
  rcases rxArriveWith_cases p b s with ⟨h, e⟩ | ⟨h, e | e | ⟨d, _, e⟩⟩
  · exact ⟨true, b, s.draws, e, by simp, by simp⟩
  · exact ⟨s.rxReady, s.rxData, s.draws, e, by simp, by simp [h]⟩
  · exact ⟨s.rxReady, b, s.draws, e, by simp, by simp [h]⟩
  · exact ⟨s.rxReady, d, s.draws + 1, e, by simp, by simp [h]⟩

/-- Everything an event can do to a state that it is performed on: nothing; one invocation, from launch
on; an arrival; the transmitter ready; reset; launch; or, before launch only, a refusal. -/
theorem perform_cases (e : Event) (s : State) :
    (perform e s = .next s ∧ e ≠ .reset ∧
      ((e = .handler ∨ e = .spurious) → s.rxie = false ∨ s.irq = false) ∧
      (∀ b, e = .rxArrive b → s.rxReady = true) ∧
      (e = .txDone → s.txReady = true) ∧ (e = .launch → s.readyToLaunch = false)) ∨
    ((e = .handler ∨ e = .spurious) ∧ s.rxie = true ∧ perform e s = execOnInterrupt s) ∨
    (∃ b r d n, e = .rxArrive b ∧
      perform e s = .next (((s.setRxData d).setRxReady r).setDraws n) ∧
      (s.rxReady = true → r = true) ∧ (s.rxReady = false → r = true ∧ d = b ∧ n = s.draws)) ∨
    (e = .txDone ∧ perform e s = .next (s.setTxReady true)) ∨
    (e = .reset ∧ perform e s = .next ((State.reset.setScript s.script).setDraws s.draws)) ∨
    (e = .launch ∧ s.readyToLaunch = true ∧ perform e s = .next (s.setRxie true)) ∨
    (e = .handler ∧ s.irq = true ∧ s.rxie = false ∧
      perform e s = .refused .serviceBeforeInitialisation) := by
  rw [perform_eq]
  by_cases he : eventEnabled e s = true
  · rw [if_pos he]
    cases e with
    | handler =>
      cases hx : s.rxie
      · exact .inr (.inr (.inr (.inr (.inr (.inr ⟨rfl, he, rfl, by simp [act, dispatch, hx]⟩)))))
      · exact .inr (.inl ⟨.inl rfl, rfl, by simp [act, dispatch, hx, exec]⟩)
    | spurious =>
      have hx : s.rxie = true := he
      exact .inr (.inl ⟨.inr rfl, hx, by simp [act, dispatch, hx, exec]⟩)
    | rxArrive b =>
      obtain ⟨r, d, n, h1, h2, h3⟩ := rxArriveWith_next Config.rxOverrun b s
      exact .inr (.inr (.inl ⟨b, r, d, n, rfl, h1, h2, h3⟩))
    | txDone => exact .inr (.inr (.inr (.inl ⟨rfl, rfl⟩)))
    | idle => exact .inl ⟨rfl, by simp⟩
    | reset => exact .inr (.inr (.inr (.inr (.inl ⟨rfl, rfl⟩))))
    | launch => exact .inr (.inr (.inr (.inr (.inr (.inl ⟨rfl, he, rfl⟩)))))
  · rw [if_neg he]
    refine .inl ⟨rfl, ?_⟩
    cases e with
    | handler => simp [show s.irq = false by simpa [eventEnabled] using he]
    | spurious => simp [show s.rxie = false by simpa [eventEnabled] using he]
    | rxArrive b =>
      simp only [eventEnabled, Bool.not_eq_true, Bool.not_eq_false', Bool.and_eq_true] at he
      simp [he.1]
    | txDone => simpa [eventEnabled] using he
    | idle => simp [eventEnabled] at he
    | reset => simp [eventEnabled] at he
    | launch => simpa [eventEnabled] using he

theorem coreRun_next (M : Host.Core) {s t : M.State} (k : Nat) (h : M.step s = .next t) :
    M.run (k + 1) s = M.run k t := by
  simp only [Host.Core.run, h]

theorem coreRun_fault (M : Host.Core) {s : M.State} {r : M.Fault} (k : Nat)
    (h : M.step s = .fault r) : M.run (k + 1) s = .fault r := by
  simp only [Host.Core.run, h]

theorem coreRun_refused (M : Host.Core) {s : M.State} {r : M.Refusal} (k : Nat)
    (h : M.step s = .refused r) : M.run (k + 1) s = .refused r := by
  simp only [Host.Core.run, h]

/-- `runSteps` is the host's run of the machine. -/
theorem coreRun_eq_runSteps (k : Nat) (s : State) : Sys2Proof.core.run k s = runSteps k s := by
  induction k generalizing s with
  | zero => rfl
  | succ k ih =>
    rw [runSteps]
    cases h : step s with
    | next t => exact (coreRun_next Sys2Proof.core k h).trans (ih t)
    | fault r => exact coreRun_fault Sys2Proof.core k h
    | refused r => exact coreRun_refused Sys2Proof.core k h

theorem runSteps_succ {s t : State} (k : Nat) (h : step s = .next t) :
    runSteps (k + 1) s = runSteps k t := by
  rw [runSteps, h, andThen_next]

theorem runSteps_add (j k : Nat) (s : State) :
    runSteps (j + k) s = andThen (runSteps j s) (runSteps k) := by
  induction j generalizing s with
  | zero => rw [Nat.zero_add]; rfl
  | succ j ih =>
    rw [show j + 1 + k = j + k + 1 by omega, runSteps, runSteps, andThen_assoc]
    cases step s with
    | next t => exact ih t
    | fault r => rfl
    | refused r => rfl

end Sys2Proof.Machine
end

