-- ==== Sys2Proof/Tests/Slice0.lean ====
section
/-! SUPPORT. Tests. Expected results are the spec's vectors (95_test_vectors.md, named V-…), the
encodings of 30_encoding.md R59, or the words of the rule named; then a witness for the hypotheses of
every obligation that has any. -/

namespace Sys2Proof.Tests

open Sys2Proof Sys2Proof.Machine

/-- A launched state: index, receive buffer, staging area. No byte waits, the transmitter is ready. -/
def mk (idx : Nat) (rxbuf : Memory) (txbuf : List Byte) (txlen txcur : Nat) (txie : Bool) : State :=
  { State.resetWith true with
    rxie := true, idx := idx, rxbuf := rxbuf, txlen := txlen, txcur := txcur, txie := txie
    txbuf := (List.range txbuf.length).zip txbuf }

/-- The same with a byte waiting. -/
def rx (b : Byte) (s : State) : State := (s.setRxData b).setRxReady true

/-- The same with the transmitter busy. -/
def busy (s : State) : State := s.setTxReady false

/-- The same with a script. -/
def scr (es : List Event) (s : State) : State := s.setScript es

/-- The outcome is a next state with the property. -/
def ends (o : Result) (p : State → Bool) : Bool :=
  match o with
  | .next t => p t
  | .fault _ => false
  | .refused _ => false

/-- The columns of the vectors: index, receive buffer, staging area, sent. -/
def shows (idx : Nat) (rxbuf : Memory) (txbuf : List Byte) (txlen txcur : Nat) (txie : Bool)
    (sent : List Byte) (t : State) : Bool :=
  t.idx == idx && t.rxbuf == rxbuf && t.txbuf.map (·.2) == txbuf && t.txlen == txlen &&
    t.txcur == txcur && t.txie == txie && t.txtrace == sent

/-- The flags `rx_ready`, `tx_ready`. -/
def flags (rxReady txReady : Bool) (t : State) : Bool :=
  t.rxReady == rxReady && t.txReady == txReady

/-- Neither a next state nor a refusal. -/
def faults (o : Result) (f : Fault) : Bool :=
  match o with
  | .fault r => r == f
  | .next _ => false
  | .refused _ => false

/-! ### WellFormed: each check refuses an ill-formed term -/

theorem test_wf_store_cr : (Instr.store 0x0D#8).wellFormed = false := by decide
theorem test_wf_store_bs : (Instr.store 0x08#8).wellFormed = false := by decide
theorem test_wf_store_del : (Instr.store 0x7F#8).wellFormed = false := by decide
theorem test_wf_stage_empty : (Instr.stage []).wellFormed = false := by decide
theorem test_wf_stage_long :
    (Instr.stage [0x08#8, 0x20#8, 0x08#8, 0x0A#8]).wellFormed = false := by decide
theorem test_wf_ranges :
    (Instr.stage [0x68#8]).wellFormed = true ∧
      (Instr.stage [0x08#8, 0x20#8, 0x08#8]).wellFormed = true ∧
      (Instr.store 0x8D#8).wellFormed = true := by decide

/-! ### Decode: words written out from R59, and the vectors V-CLASS -/

theorem test_decode_enter : decodeTableWord 8 0b00001101 = some .enter := by decide
theorem test_decode_eraseBs : decodeTableWord 8 0b00001000 = some .eraseBs := by decide
theorem test_decode_eraseDel : decodeTableWord 8 0b01111111 = some .eraseDel := by decide
theorem test_decode_store :
    decodeTableWord 8 0b01101000 = some (.store 0b01101000#8) ∧
      decodeTableWord 8 0b11111111 = some (.store 0b11111111#8) := by decide
theorem test_decode_rxReact : decodeTableWord 2 0b10 = some .rxReact := by decide
theorem test_decode_txDrain :
    decodeTableWord 2 0b01 = some .txDrain ∧ decodeTableWord 1 0b1 = some .txDrain := by decide
theorem test_decode_pair_11_rx_first :
    decodeStatus 0b11#2 = [.rxReact, .txDrain] ∧ decodeTableWord 2 0b11 = some .rxReact := by decide
theorem test_decode_refuses_by_name :
    decode (.status 0b00#2) = .error .statusSelectsNothing ∧ decodeTableWord 2 0 = none ∧
      decodeTableWord 16 0x0D = none ∧ decodeTableWord 8 256 = none := by decide
/-- V-CLASS-4 to V-CLASS-10. -/
theorem test_decode_neighbours_are_other :
    ∀ c ∈ [0x0A#8, 0x00#8, 0x07#8, 0x09#8, 0x0C#8, 0x0E#8, 0x7E#8, 0x80#8, 0x88#8, 0x8D#8, 0xFF#8,
      0x1B#8], decodeByte c = .store c := by decide
/-- The rows without a bit pattern have no word (R59). -/
theorem test_encode_none :
    ∀ i ∈ [Instr.onInterrupt, .stage [0x68#8], .riReadStatus, .riReadReceivedByte,
      .riWriteTransmitByte 0x68#8, .riEnableTransmitInterrupt, .riDisableTransmitInterrupt,
      .envRxArrive 0x68#8, .envTxDone, .fgIdle, .reset], encode i = none := by decide

/-! ### The RX arms -/

/-- V-ENTER-3, ENTER alone. -/
theorem test_enter_full_line :
    ends (exec .enter (mk 63 [(62, 0x61#8)] [0x61#8] 1 1 false)) (fun t =>
      shows 0 [(62, 0x61#8)] [0x61#8] 1 1 false [] t && t.loc.seq == [0x0D#8, 0x0A#8]) = true := by
  decide
/-- V-ENTER-5: the marker goes to the old `idx`, the reserved cell. -/
theorem test_enter_null_marker :
    ends (enterWith true (mk 63 [(62, 0x61#8)] [0x61#8] 1 1 false)) (fun t =>
      shows 0 [(62, 0x61#8), (63, 0x00#8)] [0x61#8] 1 1 false [] t) = true := by decide
/-- V-ERASE-3. -/
theorem test_eraseBs_to_empty :
    ends (exec .eraseBs (mk 1 [(0, 0x61#8)] [0x61#8] 1 1 false)) (fun t =>
      shows 0 [(0, 0x61#8)] [0x61#8] 1 1 false [] t && t.loc.seq == [0x08#8, 0x20#8, 0x08#8]) =
      true := by decide
/-- V-ERASE-4. -/
theorem test_eraseBs_empty_line :
    ends (exec .eraseBs (mk 0 [] [] 0 0 false)) (fun t => t == mk 0 [] [] 0 0 false) = true := by
  decide
/-- V-ERASE-6: DEL is not echoed. -/
theorem test_eraseDel_full_line :
    ends (exec .eraseDel (mk 63 [(62, 0x61#8)] [0x61#8] 1 1 false)) (fun t =>
      shows 62 [(62, 0x61#8)] [0x61#8] 1 1 false [] t &&
        t.loc.seq == [0x08#8, 0x20#8, 0x08#8]) = true := by decide
/-- V-STORE-3: the last usable cell. -/
theorem test_store_last_cell :
    ends (exec (.store 0x62#8) (mk 62 [] [0x61#8] 1 1 false)) (fun t =>
      shows 63 [(62, 0x62#8)] [0x61#8] 1 1 false [] t && t.loc.seq == [0x62#8]) = true := by decide
/-- V-STORE-4: dropped. -/
theorem test_store_full_line :
    ends (exec (.store 0x63#8) (mk 63 [(62, 0x62#8)] [0x62#8] 1 1 false)) (fun t =>
      t == mk 63 [(62, 0x62#8)] [0x62#8] 1 1 false) = true := by decide

/-! ### RXREACT, STAGE, TXDRAIN -/

/-- V-STORE-10: over a cell left by an earlier line. -/
theorem test_rxReact_store :
    ends (exec .rxReact (rx 0x78#8 (mk 2 [(2, 0x7A#8)] [0x08#8, 0x20#8, 0x08#8] 3 3 false)))
      (fun t => shows 3 [(2, 0x78#8)] [0x78#8, 0x20#8, 0x08#8] 1 0 true [] t &&
        flags false true t) = true := by decide
/-- V-ERASE-7: a pending response is kept. -/
theorem test_rxReact_silent_drop :
    ends (exec .rxReact (rx 0x08#8 (mk 0 [] [0x0D#8, 0x0A#8] 2 1 true))) (fun t =>
      shows 0 [] [0x0D#8, 0x0A#8] 2 1 true [] t && flags false true t) = true := by decide
/-- V-STAGE-4: hazard H1. -/
theorem test_stage_over_pending :
    ends (exec (.stage [0x61#8]) (mk 0 [] [0x0D#8, 0x0A#8] 2 1 true)) (fun t =>
      shows 0 [] [0x61#8, 0x0A#8] 1 0 true [] t) = true := by decide
/-- V-STAGE-3. -/
theorem test_stage_three_bytes :
    ends (exec (.stage [0x08#8, 0x20#8, 0x08#8]) (mk 3 [] [0x78#8] 1 1 false)) (fun t =>
      shows 3 [] [0x08#8, 0x20#8, 0x08#8] 3 0 true [] t) = true := by decide
/-- There is no bounds fault (R90): an operand of four bytes ends in no fault, and the fourth byte has
no cell (log entry 16). -/
theorem test_stage_ill_formed_no_fault :
    ends (exec (.stage [0x01#8, 0x02#8, 0x03#8, 0x04#8]) (mk 0 [] [] 0 0 false)) (fun t =>
      shows 0 [] [0x01#8, 0x02#8, 0x03#8] 4 0 true [] t) = true := by decide
/-- V-TXDRAIN-3: the last byte disables the interrupt. -/
theorem test_txDrain_last_byte :
    ends (exec .txDrain (mk 0 [] [0x0D#8, 0x0A#8] 2 1 true)) (fun t =>
      shows 0 [] [0x0D#8, 0x0A#8] 2 2 false [0x0A#8] t && flags false false t) = true := by decide
/-- V-TXDRAIN-9: the storm state is not repaired. -/
theorem test_txDrain_storm :
    ends (exec .txDrain (mk 0 [] [0x0D#8, 0x0A#8, 0x08#8] 2 2 true)) (fun t =>
      shows 0 [] [0x0D#8, 0x0A#8, 0x08#8] 2 2 true [] t && t.irq) = true := by decide

/-! ### ON_INTERRUPT, the interrupt request -/

/-- V-ISR-9: the dropped erase does not disturb the pending byte, which leaves. -/
theorem test_onInterrupt_drop_and_drain :
    ends (exec .onInterrupt (rx 0x08#8 (mk 0 [] [0x0D#8, 0x0A#8] 2 1 true))) (fun t =>
      shows 0 [] [0x0D#8, 0x0A#8] 2 2 false [0x0A#8] t && flags false false t && !t.irq) = true := by
  decide
/-- V-ISR-11: stages over a pending byte, which is lost. -/
theorem test_onInterrupt_stages_over_pending :
    ends (exec .onInterrupt (rx 0x61#8 (mk 0 [] [0x0D#8, 0x0A#8] 2 1 true))) (fun t =>
      shows 1 [(0, 0x61#8)] [0x61#8, 0x0A#8] 1 1 false [0x61#8] t && flags false false t) = true := by
  decide
/-- V-IRQ-1 to V-IRQ-10: `rx_ready`, `rxie`, `tx_ready`, `txie`, and `irq`. -/
theorem test_irq :
    ∀ v ∈ [(false, true, false, false, false), (false, true, true, false, false),
      (false, true, false, true, false), (false, true, true, true, true),
      (true, true, false, false, true), (true, true, true, false, true),
      (true, true, false, true, true), (true, true, true, true, true),
      (true, false, true, false, false), (true, false, true, true, true)],
      State.irq { State.resetWith v.2.2.1 with
        rxReady := v.1, rxie := v.2.1, txie := v.2.2.2.1 } = v.2.2.2.2 := by decide

/-! ### The Register Interface -/

theorem test_riReadStatus :
    ends (exec .riReadStatus (rx 0x41#8 (busy (mk 0 [] [] 0 0 false)))) (fun t =>
      t.loc.sample == ⟨true, false⟩ && flags true false t) = true := by decide
theorem test_riReadReceivedByte :
    ends (exec .riReadReceivedByte (rx 0x41#8 (mk 0 [] [] 0 0 false))) (fun t =>
      t.loc.c == 0x41#8 && flags false true t) = true := by decide
theorem test_riReadReceivedByte_fault :
    faults (exec .riReadReceivedByte (mk 0 [] [] 0 0 false)) .readWithoutByte = true := by decide
theorem test_riWriteTransmitByte :
    ends (exec (.riWriteTransmitByte 0x0A#8) ((mk 0 [] [] 0 0 false).setTxtrace [0x0D#8])) (fun t =>
      t.txtrace == [0x0D#8, 0x0A#8] && flags false false t) = true := by decide
theorem test_riWriteTransmitByte_fault :
    faults (exec (.riWriteTransmitByte 0x0A#8) (busy (mk 0 [] [] 0 0 false))) .writeWhileBusy =
      true := by decide
theorem test_riEnableTransmitInterrupt :
    ends (exec .riEnableTransmitInterrupt (mk 0 [] [] 0 0 false)) (fun t => t.txie && t.irq) =
      true := by decide
theorem test_riDisableTransmitInterrupt :
    ends (exec .riDisableTransmitInterrupt (mk 0 [] [] 0 0 true)) (fun t => !t.txie && !t.irq) =
      true := by decide

/-! ### The environment, reset, launch -/

/-- V-ENV-1. -/
theorem test_envRxArrive :
    ends (exec (.envRxArrive 0x41#8) (mk 0 [] [] 0 0 false)) (fun t =>
      t.rxData == 0x41#8 && flags true true t && t.irq) = true := by decide
/-- V-ENV-2, V-ENV-3. -/
theorem test_envRxArrive_overrun :
    ends (rxArriveWith .keepOld 0x42#8 (rx 0x41#8 (mk 0 [] [] 0 0 false))) (fun t =>
      t.rxData == 0x41#8 && t.rxReady) = true ∧
    ends (rxArriveWith .replace 0x42#8 (rx 0x41#8 (mk 0 [] [] 0 0 false))) (fun t =>
      t.rxData == 0x42#8 && t.rxReady) = true := by decide
/-- V-ENV-6. -/
theorem test_envTxDone :
    ends (exec .envTxDone (busy (mk 0 [] [0x0D#8, 0x0A#8] 2 1 true))) (fun t =>
      flags false true t && t.irq) = true := by decide
/-- V-ENV-7. -/
theorem test_envTxDone_not_enabled :
    eventEnabled .txDone (mk 0 [] [] 0 0 false) = false := by decide
/-- V-ENV-8. -/
theorem test_fgIdle :
    ends (exec .fgIdle (mk 0 [] [0x0D#8] 1 0 true)) (fun t => t == mk 0 [] [0x0D#8] 1 0 true) =
      true := by decide
/-- V-RESET-1. -/
theorem test_reset :
    ends (exec .reset ((rx 0x41#8 (mk 5 [(0, 0x61#8)] [0x08#8, 0x20#8, 0x08#8] 3 1 true)).setTxtrace
      [0x61#8, 0x08#8])) (fun t =>
      shows 0 [] [] 0 0 false [] t && !t.rxReady && !t.rxie) = true := by decide
/-- V-RESET-2, for both values of `TX_READY_AT_LAUNCH`. -/
theorem test_launch :
    ∀ r : Bool, (launch (State.resetWith r)).irq = false ∧
      eventEnabled .handler (launch (State.resetWith r)) = false ∧
      eventEnabled (.rxArrive 0x41#8) (launch (State.resetWith r)) = true ∧
      eventEnabled .txDone (launch (State.resetWith r)) = !r := by decide

/-! ### The step -/

/-- Program P1, steps 1 and 2, as two separate steps. -/
theorem test_step_arrival :
    ends (step (scr [.rxArrive 0x68#8] (mk 0 [] [] 0 0 false))) (fun t =>
      t == rx 0x68#8 (mk 0 [] [] 0 0 false)) = true := by decide
theorem test_step_handler :
    ends (step (scr [.handler] (rx 0x68#8 (mk 0 [] [] 0 0 false)))) (fun t =>
      shows 1 [(0, 0x68#8)] [0x68#8] 1 1 false [0x68#8] t && flags false false t) = true := by decide
/-- A placed word is run by the very next step from reset. -/
theorem test_step_placed_word :
    ends (step (State.reset.withFetchWord 8 0x0D)) (fun t =>
      shows 0 [] [0x0D#8, 0x0A#8] 2 0 true [] t) = true ∧
    ends (step (State.reset.withFetchWord 2 0b01)) (fun t => t.txtrace == [0x00#8]) = true := by
  decide

/-! ### Witnesses: states that meet the hypotheses of the obligations, at the edges of each clause -/

/-- Nothing received or pending, the line empty. -/
def quiet : State := mk 0 [] [] 0 0 false

/-- A full line of 63 bytes. -/
def full : State := mk 63 ((List.range 63).map fun i => (i, 0x61#8)) [0x61#8] 1 1 false

/-- One byte of the line left over, `LF` pending. -/
def pend : State := mk 1 [(0, 0x61#8)] [0x0D#8, 0x0A#8] 2 1 true

theorem test_witness_states_meet_invariant : quiet.Inv ∧ full.Inv ∧ pend.Inv := by decide

theorem test_witness_ByteStreamsRoundTrip :
    ∀ i ∈ [Instr.enter, .eraseBs, .eraseDel, .store 0x00#8, .store 0xFF#8],
      i.wellFormed = true ∧ (encodeByte i).isSome = true := by decide

theorem test_witness_ResponseSequences :
    classify 0x0D#8 = .enter ∧ classify 0x08#8 = .erase ∧ classify 0x7F#8 = .erase ∧ 0 < 1 ∧
      classify 0x7E#8 = .other ∧ 62 < Config.N - 1 := by decide

theorem test_witness_EnterWithNullMarkerWritesOneCell : quiet.inv1 ∧ full.inv1 := by decide

theorem test_witness_EraseShortensTheLineOrDoesNothing :
    quiet.idx = 0 ∧ 0 < pend.idx ∧ 0 < full.idx := by decide

theorem test_witness_StoreAppendsOrDrops :
    classify 0xFF#8 = .other ∧ ¬ full.idx < Config.N - 1 ∧
      (mk 62 [] [] 0 0 false).idx < Config.N - 1 ∧ quiet.idx < Config.N - 1 ∧
      quiet.idx + (List.replicate 63 0x61#8).length ≤ Config.N - 1 := by decide

theorem test_witness_RxReactionRunsTheDecodedByte :
    (rx 0x0D#8 quiet).rxReady = true ∧ classify (rx 0x0D#8 quiet).rxData = .enter ∧
      classify (rx 0x7F#8 quiet).rxData = .erase ∧ classify (rx 0x00#8 quiet).rxData = .other := by
  decide

theorem test_witness_RxReactionArms :
    ((rx 0x0D#8 full).rxReady = true ∧ (rx 0x0D#8 full).idx ≤ Config.N - 1 ∧
      classify (rx 0x0D#8 full).rxData = .enter) ∧
    (classify (rx 0x08#8 pend).rxData = .erase ∧ 0 < (rx 0x08#8 pend).idx) ∧
    (classify (rx 0x7F#8 quiet).rxData = .erase ∧ (rx 0x7F#8 quiet).idx = 0) ∧
    (classify (rx 0x63#8 (mk 62 [] [] 0 0 false)).rxData = .other ∧
      (rx 0x63#8 (mk 62 [] [] 0 0 false)).idx < Config.N - 1) ∧
    (classify (rx 0x63#8 full).rxData = .other ∧ (rx 0x63#8 full).idx = Config.N - 1) := by decide

theorem test_witness_RxReactionFrame : (rx 0x41#8 quiet).rxReady = true := by decide

theorem test_witness_NoByteNoRxReaction : quiet.rxReady = false := by decide

theorem test_witness_StageCommitsTheResponse :
    (Instr.stage [0x41#8]).wellFormed = true ∧
      (Instr.stage [0x08#8, 0x20#8, 0x08#8]).wellFormed = true := by decide

theorem test_witness_StageDiscardsWhatWasPending :
    (Instr.stage [0x0D#8, 0x0A#8]).wellFormed = true := by decide

/-- The first of three bytes, and the last. -/
theorem test_witness_TxDrainSendsOneByte :
    (let s := mk 0 [] [0x08#8, 0x20#8, 0x08#8] 3 0 true
     s.txReady = true ∧ s.txcur < s.txlen ∧ s.txcur < Config.TXCAP ∧
      s.txbuf.read s.txcur = some 0x08#8) ∧
    (let s := mk 0 [] [0x08#8, 0x20#8, 0x08#8] 3 2 true
     s.txReady = true ∧ s.txcur < s.txlen ∧ s.txcur < Config.TXCAP ∧
      s.txbuf.read s.txcur = some 0x08#8) := by decide

theorem test_witness_TxDrainGuardFalseDoesNothing :
    (busy pend).txReady = false ∧ full.txlen ≤ full.txcur := by decide

theorem test_witness_InvocationWithoutByte :
    quiet.rxReady = false ∧ ((busy pend).rxReady = false ∧ (busy pend).txReady = false) ∧
      (full.rxReady = false ∧ full.txlen ≤ full.txcur) ∧
      (pend.rxReady = false ∧ pend.txReady = true ∧ pend.txcur < pend.txlen ∧
        pend.txcur < Config.TXCAP ∧ pend.txbuf.read pend.txcur = some 0x0A#8) := by decide

theorem test_witness_SilentDropOnlyConsumesTheByte :
    ((rx 0x08#8 quiet).rxReady = true ∧ classify (rx 0x08#8 quiet).rxData = .erase ∧
      (rx 0x08#8 quiet).idx = 0) ∧
    ((rx 0x63#8 full).rxReady = true ∧ classify (rx 0x63#8 full).rxData = .other ∧
      Config.N - 1 ≤ (rx 0x63#8 full).idx) := by decide

theorem test_witness_StagingInvocationTransmitterBusy :
    let s := rx 0x63#8 (busy (mk 62 [] [] 0 0 false))
    s.rxReady = true ∧ s.txReady = false ∧ response s.idx s.rxData ≠ [] := by decide

/-- Responses of one, two and three bytes. -/
theorem test_witness_StagingInvocationSendsTheFirstByte :
    (rx 0x61#8 quiet).rxReady = true ∧ (rx 0x61#8 quiet).txReady = true ∧
      response 62 0x61#8 = 0x61#8 :: [] ∧ response 0 0x0D#8 = 0x0D#8 :: [0x0A#8] ∧
      response 1 0x7F#8 = 0x08#8 :: [0x20#8, 0x08#8] := by decide

theorem test_witness_InvocationEditsTheLine :
    ((rx 0x63#8 full).Inv ∧ (rx 0x63#8 full).rxReady = true) ∧
      ((rx 0x08#8 pend).Inv ∧ (rx 0x08#8 pend).rxReady = true) := by decide

theorem test_witness_StagingOverwriteLosesTheUnsentBytes :
    let s := rx 0x61#8 pend
    s.Inv ∧ s.rxReady = true ∧ s.txcur < s.txlen ∧ response s.idx s.rxData ≠ [] := by decide

theorem test_witness_SpuriousInvocationIsHarmless :
    (quiet.Inv ∧ quiet.rxie = true ∧ quiet.irq = false) ∧
      ((busy pend).Inv ∧ (busy pend).rxie = true ∧ (busy pend).irq = false) := by decide

/-- V-ISR-14. -/
theorem test_witness_StormNeverEndsByItself :
    let s := mk 0 [] [0x0D#8, 0x0A#8] 2 2 true
    s.storm = true ∧ s.rxReady = false ∧ s.rxie = true ∧ s.loc = Locals.clear := by decide

/-- V-ISR-15. -/
theorem test_witness_StagedByteEndsTheStorm :
    let s := rx 0x41#8 (mk 0 [] [0x0D#8, 0x0A#8] 2 2 true)
    s.storm = true ∧ s.rxReady = true ∧ response s.idx s.rxData ≠ [] := by decide

theorem test_witness_ReadReceivedByteClearsRxReady :
    quiet.rxReady = false ∧ (rx 0x41#8 quiet).rxReady = true := by decide

theorem test_witness_WriteTransmitByteSendsOnce :
    (busy quiet).txReady = false ∧ quiet.txReady = true := by decide

theorem test_witness_EnableAndDisableToggleTxie : quiet.txReady = true := by decide

theorem test_witness_SourcesPendAndClear :
    (rx 0x41#8 pend).rxReady = true ∧
      (pend.txReady = true ∧ pend.txcur + 1 = pend.txlen ∧ pend.txcur < Config.TXCAP ∧
        pend.txbuf.read pend.txcur = some 0x0A#8) ∧
      (quiet.rxReady = false ∧ quiet.txReady = true ∧ quiet.txie = false) := by decide

theorem test_witness_ArrivalDeliversTheByte : quiet.rxReady = false := by decide

theorem test_witness_OverrunKeepsExactlyOneByte : (rx 0x41#8 quiet).rxReady = true := by decide

/-- One state for each clause. -/
theorem test_witness_StepMovesTheScriptsAgent :
    (let s := scr [.handler] pend
     s.script = .handler :: [] ∧ s.irq = true ∧ s.rxie = true) ∧
    (scr [.handler] quiet).irq = false ∧
    (let s := scr [.spurious] quiet
     s.script = .spurious :: [] ∧ s.rxie = true) ∧
    (scr [.spurious] (State.resetWith true)).rxie = false ∧
    (scr [.rxArrive 0x00#8] full).script = .rxArrive 0x00#8 :: [] ∧
    (let s := scr [.txDone] (busy pend)
     s.script = .txDone :: [] ∧ s.txReady = false) ∧
    (scr [.txDone] quiet).txReady = true ∧
    (scr [.idle] quiet).script = .idle :: [] ∧ (scr [.reset] pend).script = .reset :: [] := by
  decide

/-- The launch clauses: the reset state, and a byte that arrived before launch. -/
theorem test_witness_StepMovesTheScriptsAgent_launch :
    (scr [.launch] State.reset).atReset ∧ ¬ (scr [.launch] (rx 0x41#8 State.reset)).atReset :=
  ⟨State.atReset_reset _, fun h => absurd h.2.2.2.2.1 (by decide)⟩

theorem test_witness_LaunchLeadsFromResetToLaunchState :
    step (scr [.launch] State.reset) = .next (State.reset.setRxie true) ∧
      (scr [.launch] State.reset).rxie = false ∧ (State.reset.setRxie true).rxie = true :=
  ⟨step_launch rfl (State.atReset_reset _), rfl, rfl⟩

theorem test_witness_StepRunsTheWaitingByte :
    let s := scr [.handler] (rx 0x08#8 pend)
    s.script = .handler :: [] ∧ s.rxReady = true ∧ s.rxie = true := by decide

theorem test_witness_PlacedWordIsRunNext : 0 < 256 ∧ 255 < 256 ∧ 1 ≤ 1 ∧ 1 < 4 ∧ 1 ≤ 3 ∧ 3 < 4 := by
  decide

/-- V-IRQ-10. -/
theorem test_witness_ServiceBeforeInitialisationIsRefused :
    let s := scr [.handler] ((mk 0 [] [] 0 0 true).setRxie false)
    s.script = .handler :: [] ∧ s.irq = true ∧ s.rxie = false := by decide

theorem test_witness_EveryStepKeepsInvariant :
    (scr [.txDone] (busy pend)).Inv ∧
      step (scr [.txDone] (busy pend)) = .next ((busy pend).setTxReady true) :=
  ⟨by decide, rfl⟩

theorem test_witness_InvariantStatesAlwaysStep :
    (scr [.handler] (rx 0x63#8 full)).Inv ∧ (State.resetWith false).Inv := by decide

theorem test_witness_EnvironmentLeavesTheBlockAlone :
    ∀ e ∈ [Event.rxArrive 0x0D#8, .txDone, .idle],
      isEnvironment (nextEvent (scr [e] pend)).1 = true := by decide

/-- An arrival, a `tx_done` and a launch: the three premises that a flag or an enable rises. -/
theorem test_witness_FlagsMoveOnlyByTheirWriters :
    step (scr [.rxArrive 0x41#8] quiet) = .next (rx 0x41#8 quiet) ∧
    step (scr [.txDone] (busy quiet)) = .next quiet ∧
    step (scr [.launch] State.reset) = .next (State.reset.setRxie true) ∧
    (nextEvent (scr [.launch] State.reset)).1 ≠ .reset :=
  ⟨rfl, rfl, step_launch rfl (State.atReset_reset _), by decide⟩

/-- An invocation that clears all of `rx_ready`, `tx_ready` and `txie`: the premises that one falls. -/
theorem test_witness_FlagsMoveOnlyByTheirWriters_falling :
    ends (step (scr [.handler] (rx 0x61#8 pend))) (fun t => flags false false t && !t.txie) = true ∧
      flags true true (rx 0x61#8 pend) = true ∧ pend.txie = true := by decide

theorem test_witness_OneByteSentPerStepAtMost :
    ends (step (scr [.handler] pend)) (fun t => t.txtrace == [0x0A#8]) = true ∧
      (nextEvent (scr [.handler] pend)).1 ≠ .reset := by decide

/-- A full line, one more byte, and the reserved cell unwritten. -/
theorem test_witness_ReservedCellStaysUnwritten :
    let s := scr [.handler] (rx 0x63#8 full)
    s.rxbuf.read (Config.N - 1) = none ∧
      ends (step s) (fun t => t.rxbuf == full.rxbuf && !t.rxReady) = true := by decide

/-- The premise over an arrival, and over an invocation whose byte stages. -/
theorem test_witness_PacedStepsRefineTheLineEditor :
    (scr [.rxArrive 0x41#8] quiet).Inv ∧ (rx 0x41#8 quiet).Inv ∧
      Paced (.rxArrive 0x41#8) quiet ∧ Paced .handler (rx 0x41#8 full) ∧
      Paced .handler (rx 0x41#8 quiet) ∧ Paced .launch (scr [.launch] State.reset) ∧
      Paced .launch quiet := by
  refine ⟨by decide, by decide, rfl, fun _ _ => rfl, fun _ _ => rfl, .inr (State.atReset_reset _), .inl rfl⟩

theorem test_witness_DrainSendsThePendingBytesInOrder :
    (let s := mk 0 [] [0x08#8, 0x20#8, 0x08#8] 3 0 true
     s.Inv ∧ s.rxie = true ∧ s.rxReady = false) ∧
    (quiet.Inv ∧ quiet.rxie = true ∧ quiet.rxReady = false) := by decide

theorem test_witness_FourInvocationsReachRest :
    (rx 0x08#8 (mk 1 [(0, 0x61#8)] [0x08#8, 0x20#8, 0x08#8] 3 0 true)).Inv ∧
      (rx 0x08#8 (mk 1 [(0, 0x61#8)] [0x08#8, 0x20#8, 0x08#8] 3 0 true)).rxie = true := by decide

end Sys2Proof.Tests
end

section
/-! PROOFS. The RX reaction (40_rx_reaction.md R60, R66): what each arm answers, what reaches the
block's cells when the arm stages and when it does not, and the two statements about RXREACT. -/

namespace Sys2Proof.Machine

/-! ### The arms of a byte -/

theorem response_enter {b : Byte} (idx : Nat) (hc : classify b = .enter) :
    response idx b = [Config.CR, Config.LF] := by simp [response, hc, seqEnter]

theorem response_erase {b : Byte} {idx : Nat} (hc : classify b = .erase) (hi : 0 < idx) :
    response idx b = [Config.BS, Config.SP, Config.BS] := by
  simp [response, hc, Nat.ne_of_gt hi, seqErase]

theorem response_erase_empty {b : Byte} (hc : classify b = .erase) : response 0 b = [] := by
  simp [response, hc]

theorem response_other {b : Byte} {idx : Nat} (hc : classify b = .other)
    (hi : idx < Config.N - 1) : response idx b = [b] := by
  simp [response, hc, hi, seqEcho]

theorem response_other_full {b : Byte} {idx : Nat} (hc : classify b = .other)
    (hi : Config.N - 1 ≤ idx) : response idx b = [] := by
  simp [response, hc, Nat.not_lt.mpr hi]

/-- The receive buffer changes in one arm alone, STORE with room on the line: the byte goes to the
cell at the old index. -/
theorem read_nextRxbuf (s : State) (b : Byte) (a : Nat) :
    (nextRxbuf s b).read a =
      if classify b = .other ∧ s.idx < Config.N - 1 ∧ a = s.idx then some b
      else s.rxbuf.read a := by
  unfold nextRxbuf
  cases classify b with
  | enter => simp
  | erase => simp
  | other =>
    by_cases hi : s.idx < Config.N - 1
    · simp [hi, Memory.read_write]
    · simp [hi]

/-- An arm that answers nothing is a silent drop: the line stays as it is. -/
theorem next_of_response_eq_nil {s : State} {b : Byte} (hq : response s.idx b = []) :
    nextIdx s.idx b = s.idx ∧ nextRxbuf s b = s.rxbuf := by
  unfold response at hq
  unfold nextIdx nextRxbuf
  cases hc : classify b with
  | enter => simp [hc, seqEnter] at hq
  | erase =>
    have hi : s.idx = 0 := by simpa [hc, seqErase] using hq
    simp [hi]
  | other =>
    have hi : ¬ s.idx < Config.N - 1 := by simpa [hc, seqEcho] using hq
    simp [hi]

/-! ### The state the RX reaction leaves -/

/-- A silent drop leaves the block as it was. -/
theorem rxState_sameBlock {s : State} (hq : response s.idx s.rxData = []) :
    SameBlock s (rxState s) := by
  obtain ⟨hidx, hrxbuf⟩ := next_of_response_eq_nil hq
  rcases rxState_staging s with ⟨_, htxbuf, htxlen, htxcur, htxie⟩ | ⟨hne, _⟩
  · exact ⟨(rxState_rxbuf s).trans hrxbuf, (rxState_idx s).trans hidx, htxbuf, htxlen, htxcur,
      htxie, rxState_txtrace s⟩
  · exact absurd hq hne

/-- The cells of the staging buffer beyond the response keep their values, in every arm. -/
theorem rxState_txbuf_beyond {s : State} {a : Nat}
    (ha : (response s.idx s.rxData).length ≤ a) :
    (rxState s).txbuf.read a = s.txbuf.read a := by
  rcases rxState_staging s with ⟨_, htxbuf, _⟩ | ⟨_, htxbuf, _⟩
  · rw [htxbuf]
  · simp [htxbuf, Memory.read_writeSeq, Nat.not_lt.mpr ha]

/-- An arm that answers `q` stages it: `q` fills the first cells of the staging buffer, the cells
beyond keep their values, and the drain starts at cell 0. -/
theorem rxState_staged {s : State} {q : List Byte} (hq : response s.idx s.rxData = q)
    (hne : q ≠ []) :
    (rxState s).txlen = q.length ∧ (rxState s).txcur = 0 ∧ (rxState s).txie = true ∧
      (∀ a, a < q.length → (rxState s).txbuf.read a = q[a]?) ∧
      ∀ a, q.length ≤ a → (rxState s).txbuf.read a = s.txbuf.read a := by
  subst hq
  obtain ⟨hlen, hcur, hie, hcells, _⟩ := rxState_cells hne
  exact ⟨hlen, hcur, hie, hcells, fun _ => rxState_txbuf_beyond⟩

theorem exec_rxReact {s : State} (h : s.rxReady = true) :
    exec .rxReact s = .next (rxState s) :=
  (execRxReact_eq s).trans (by rw [if_pos h])

/-- RXREACT in terms of `exec` alone: the read, the instruction the byte decodes to, STAGE if that
set `staged`. -/
theorem exec_rxReact_eq_andThen {s : State} (h : s.rxReady = true) :
    exec .rxReact s =
      andThen (exec .riReadReceivedByte s) (fun s1 =>
      andThen (exec (decodeByte s1.loc.c) (s1.setLoc { s1.loc with staged := false })) fun s2 =>
        if s2.loc.staged = true then exec (.stage s2.loc.seq) s2 else .next s2) := by
  calc exec .rxReact s = rxReaction s := if_pos h
    _ = _ := by simp only [rxReaction, runByte_eq_exec]; rfl

/-! ### The statements -/

/-- Settles O10: RXREACT is the composition of the three operations because `runByte` is `exec` of
the decoded byte, and its closed form `rxState` names the state in which it completes. -/
theorem rxReactionRunsTheDecodedByte : Obligations.RxReactionRunsTheDecodedByte := by
  intro s h
  refine ⟨exec_rxReact_eq_andThen h, fun hc => ?_, fun hc => ?_, fun hc => ?_,
    rxState s, exec_rxReact h, rxState_c s, rxState_rxReady s, rxState_txReady s⟩
  · simp [decodeByte, hc]
  · rcases (classify_eq_erase_iff _).mp hc with hb | hb <;> rw [hb]
    · exact .inl rfl
    · exact .inr rfl
  · simp [decodeByte, hc]

/-- Settles O11, arm by arm: an arm with a response stages it (`rxState_staged`), the two silent
drops leave the block alone (`rxState_sameBlock`), and only STORE writes the receive buffer
(`read_nextRxbuf`). -/
theorem rxReactionArms : Obligations.RxReactionArms := by
  intro s h _
  refine ⟨rxState s, exec_rxReact h, rxState_rxReady s, rxState_txReady s,
    fun hc => ?_, fun hc hi => ?_,
    fun hc hi => rxState_sameBlock (hi ▸ response_erase_empty hc), fun hc hi => ?_,
    fun hc hi => rxState_sameBlock (response_other_full hc hi.ge)⟩
  · obtain ⟨hlen, hcur, hie, hcells, hbeyond⟩ :=
      rxState_staged (response_enter s.idx hc) (by simp)
    exact ⟨by simp [nextIdx, hc], hlen, hcur, hie,
      fun a => by simp [read_nextRxbuf, hc, Config.nulOnEnter],
      hcells 0 (by simp), hcells 1 (by simp), hbeyond⟩
  · obtain ⟨hlen, hcur, hie, hcells, hbeyond⟩ :=
      rxState_staged (response_erase hc hi) (by simp)
    exact ⟨by simp [nextIdx, hc], hlen, hcur, hie, fun a => by simp [read_nextRxbuf, hc],
      hcells 0 (by simp), hcells 1 (by simp), hcells 2 (by simp), hbeyond⟩
  · obtain ⟨hlen, hcur, hie, hcells, hbeyond⟩ :=
      rxState_staged (response_other hc hi) (by simp)
    exact ⟨by simp [nextIdx, hc, hi], hlen, hcur, hie,
      fun a => by simp [read_nextRxbuf, hc, hi], hcells 0 (by simp), hbeyond⟩

end Sys2Proof.Machine
end

section
/-! PROOF. The idle foreground (42_on_interrupt.md R83). -/

namespace Sys2Proof.Machine

theorem eventEnabled_idle (s : State) : eventEnabled .idle s = true := rfl

theorem exec_fgIdle (s : State) : exec .fgIdle s = .next s := rfl

/-- Settles O36: the enabling condition of the idle step does not read the state, and FG.IDLE answers
with the state it was given. -/
theorem idleChangesNothing : Obligations.IdleChangesNothing :=
  fun s => ⟨eventEnabled_idle s, exec_fgIdle s⟩

end Sys2Proof.Machine
end

section
/-! PROOFS. One step as one inversion lemma: what each event does to the state it is performed on,
and what it keeps. The statements about every step are read off it. -/

namespace Sys2Proof.Machine

/-! ### One invocation -/

section
variable {s t : State}

/-- An invocation is the RX reaction, if a byte waits, and then the second half: the fields that the
second half does not move are as the RX reaction left them. -/
theorem execOnInterrupt_of_byte (h : s.rxReady = true) :
    execOnInterrupt s = finishInvocation (rxState s) := by
  rw [execOnInterrupt_eq, if_pos h]

theorem execOnInterrupt_of_no_byte (h : s.rxReady = false) :
    execOnInterrupt s = finishInvocation s := by
  rw [execOnInterrupt_eq, if_neg (by simp [h])]

/-- The state between the two halves of an invocation. -/
theorem execOnInterrupt_halfway (h : execOnInterrupt s = .next t) :
    ∃ u, finishInvocation u = .next t ∧
      ((s.rxReady = true ∧ u = rxState s) ∨ (s.rxReady = false ∧ u = s)) := by
  cases hr : s.rxReady with
  | false => exact ⟨s, by rw [← h, execOnInterrupt_of_no_byte hr], .inr ⟨rfl, rfl⟩⟩
  | true => exact ⟨rxState s, by rw [← h, execOnInterrupt_of_byte hr], .inl ⟨rfl, rfl⟩⟩

/-- After an invocation no byte waits. -/
theorem execOnInterrupt_rxReady (h : execOnInterrupt s = .next t) : t.rxReady = false := by
  obtain ⟨u, hu, hcase⟩ := execOnInterrupt_halfway h
  obtain ⟨_, _, hrx, _⟩ := finishInvocation_keeps hu
  rcases hcase with ⟨_, rfl⟩ | ⟨hr, rfl⟩
  · rw [hrx, rxState_rxReady]
  · rw [hrx, hr]

theorem execOnInterrupt_rxie (h : execOnInterrupt s = .next t) : t.rxie = s.rxie := by
  obtain ⟨u, hu, hcase⟩ := execOnInterrupt_halfway h
  obtain ⟨_, _, _, _, hrxie, _⟩ := finishInvocation_keeps hu
  rcases hcase with ⟨_, rfl⟩ | ⟨_, rfl⟩ <;> simp [hrxie]

theorem execOnInterrupt_script (h : execOnInterrupt s = .next t) : t.script = s.script := by
  obtain ⟨u, hu, hcase⟩ := execOnInterrupt_halfway h
  obtain ⟨_, _, _, _, _, hscript, _⟩ := finishInvocation_keeps hu
  rcases hcase with ⟨_, rfl⟩ | ⟨_, rfl⟩ <;> simp [hscript]

/-- The second half sends nothing, or one byte to a transmitter that was ready and is then busy. -/
theorem finishInvocation_sends (h : finishInvocation s = .next t) :
    (t.txtrace = s.txtrace ∧ t.txReady = s.txReady) ∨
    (s.txReady = true ∧ t.txReady = false ∧ ∃ b, t.txtrace = s.txtrace ++ [b]) := by
  rcases finishInvocation_eq_next h with ⟨_, rfl⟩ | ⟨hr, _, _, b, _, rfl⟩
  · exact .inl ⟨rfl, rfl⟩
  · exact .inr ⟨hr, rfl, b, rfl⟩

/-- So does an invocation, since the RX reaction writes nothing to the transmitter. -/
theorem execOnInterrupt_sends (h : execOnInterrupt s = .next t) :
    (t.txtrace = s.txtrace ∧ t.txReady = s.txReady) ∨
    (s.txReady = true ∧ t.txReady = false ∧ ∃ b, t.txtrace = s.txtrace ++ [b]) := by
  obtain ⟨u, hu, ⟨_, rfl⟩ | ⟨_, rfl⟩⟩ := execOnInterrupt_halfway h
  · simpa using finishInvocation_sends hu
  · exact finishInvocation_sends hu

/-- STORE's guard keeps the reserved cell, the last one of the receive buffer, unwritten. -/
theorem nextRxbuf_reserved (b : Byte) (h : s.rxbuf.read (Config.N - 1) = none) :
    (nextRxbuf s b).read (Config.N - 1) = none := by
  rw [read_nextRxbuf, if_neg, h]
  rintro ⟨_, hlt, heq⟩
  omega

theorem execOnInterrupt_reserved (h : execOnInterrupt s = .next t)
    (hc : s.rxbuf.read (Config.N - 1) = none) : t.rxbuf.read (Config.N - 1) = none := by
  obtain ⟨u, hu, hcase⟩ := execOnInterrupt_halfway h
  obtain ⟨hrxbuf, _⟩ := finishInvocation_keeps hu
  rw [hrxbuf]
  rcases hcase with ⟨_, rfl⟩ | ⟨_, rfl⟩
  · rw [rxState_rxbuf]
    exact nextRxbuf_reserved _ hc
  · exact hc

end

/-! ### Which agent moves -/

section
variable {s : State} {e : Event} {rest : List Event}

/-- The step of an agent whose step is enabled. -/
theorem step_enabled (h : s.script = e :: rest) (he : eventEnabled e (s.setScript rest) = true) :
    step s = act e (s.setScript rest) := by
  rw [step_script h, perform_eq, if_pos he]

/-- The foreground idles for an agent whose step is not enabled. -/
theorem step_disabled (h : s.script = e :: rest) (he : eventEnabled e (s.setScript rest) = false) :
    step s = exec .fgIdle (s.setScript rest) := by
  rw [step_script h, perform_eq, if_neg (by simp [he])]
  rfl

/-- From launch on the dispatcher runs ON_INTERRUPT. -/
theorem dispatch_launched {u : State} (hx : u.rxie = true) : dispatch u = exec .onInterrupt u :=
  if_pos hx

theorem step_handler_enabled (h : s.script = .handler :: rest) (hirq : s.irq = true)
    (hx : s.rxie = true) : step s = exec .onInterrupt (s.setScript rest) :=
  (step_enabled h hirq).trans (dispatch_launched hx)

/-- An arrival with no unread byte. -/
theorem exec_envRxArrive_free (b : Byte) {u : State} (h : u.rxReady = false) :
    exec (.envRxArrive b) u = .next ((u.setRxData b).setRxReady true) :=
  if_neg (by simp [h])

/-- An arrival is ENV.RX_ARRIVE also where the policy forbids it: nothing moves then. -/
theorem step_arrival {b : Byte} (h : s.script = .rxArrive b :: rest) :
    step s = exec (.envRxArrive b) (s.setScript rest) := by
  cases he : eventEnabled (.rxArrive b) (s.setScript rest) with
  | true => exact step_enabled h he
  | false =>
    have hno : s.rxReady = true ∧ Config.rxOverrun = .noMove := by simpa [eventEnabled] using he
    have hexec : exec (.envRxArrive b) (s.setScript rest) =
      rxArriveWith Config.rxOverrun b (s.setScript rest) := rfl
    rw [step_disabled h he, hexec, hno.2, exec_fgIdle]
    simp [rxArriveWith, hno.1]

end

/-! ### The effect of an event -/

/-- What event `e`, performed on `s`, can make of it: nothing, with the reasons why; one invocation;
an arrival; the transmitter ready; reset; launch. -/
inductive Effect : Event → State → State → Prop
  | rest {e : Event} {s : State} (hreset : e ≠ .reset)
      (hinvoke : e = .handler ∨ e = .spurious → s.rxie = false ∨ s.irq = false)
      (harrive : ∀ b, e = .rxArrive b → s.rxReady = true)
      (hlaunch : e = .launch → s.readyToLaunch = false) : Effect e s s
  | invoke {e : Event} {s t : State} (he : e = .handler ∨ e = .spurious) (hrxie : s.rxie = true)
      (hrun : execOnInterrupt s = .next t) : Effect e s t
  | arrive {s : State} (b : Byte) (r : Bool) (d : Byte) (n : Nat)
      (hover : s.rxReady = true → r = true) (hfree : s.rxReady = false → r = true ∧ d = b) :
      Effect (.rxArrive b) s (((s.setRxData d).setRxReady r).setDraws n)
  | txDone {s : State} : Effect .txDone s (s.setTxReady true)
  | reset {s : State} : Effect .reset s ((State.reset.setScript s.script).setDraws s.draws)
  | launch {s : State} (hreset : s.atReset) : Effect .launch s (s.setRxie true)

/-- An event has an effect, or an invocation stopped, or it was the service that is refused before
launch. -/
theorem perform_effect (e : Event) (s : State) :
    (∃ t, perform e s = .next t ∧ Effect e s t) ∨
    (s.rxie = true ∧ perform e s = execOnInterrupt s ∧ (e = .handler ∨ e = .spurious)) ∨
    (s.irq = true ∧ s.rxie = false ∧ perform e s = .refused .serviceBeforeInitialisation ∧
      e = .handler) := by
  rcases perform_cases e s with ⟨h, hreset, hinvoke, harrive, _, hlaunch⟩ | ⟨he, hrxie, h⟩ |
    ⟨b, r, d, n, rfl, h, hover, hfree⟩ | ⟨rfl, h⟩ | ⟨rfl, h⟩ | ⟨rfl, hready, h⟩ |
    ⟨rfl, hirq, hrxie, h⟩
  · exact .inl ⟨_, h, .rest hreset hinvoke harrive hlaunch⟩
  · exact .inr (.inl ⟨hrxie, h, he⟩)
  · exact .inl ⟨_, h, .arrive b r d n hover fun hf => ⟨(hfree hf).1, (hfree hf).2.1⟩⟩
  · exact .inl ⟨_, h, .txDone⟩
  · exact .inl ⟨_, h, .reset⟩
  · exact .inl ⟨_, h, .launch (State.readyToLaunch_iff.mp hready)⟩
  · exact .inr (.inr ⟨hirq, hrxie, h, rfl⟩)

/-- A step that answers a next state is the effect of its event. -/
theorem step_effect {s t : State} (h : step s = .next t) :
    Effect (nextEvent s).1 (nextEvent s).2 t := by
  unfold step at h
  rcases perform_effect (nextEvent s).1 (nextEvent s).2 with
    ⟨t', ht, heff⟩ | ⟨hrxie, hrun, he⟩ | ⟨_, _, hrefused, _⟩
  · cases ht.symm.trans h
    exact heff
  · exact .invoke he hrxie (hrun.symm.trans h)
  · cases hrefused.symm.trans h

/-- Taking the next event moves the script and the draws alone. -/
theorem nextEvent_same {α : Type} (f : State → α) (hscript : ∀ s es, f (s.setScript es) = f s)
    (hdraws : ∀ s n, f (s.setDraws n) = f s) (s : State) : f (nextEvent s).2 = f s := by
  rcases nextEvent_state s with ⟨rest, h⟩ | h
  · rw [h, hscript]
  · rw [h, hdraws]

section
variable (s : State)

@[simp] theorem nextEvent_rxbuf : (nextEvent s).2.rxbuf = s.rxbuf :=
  nextEvent_same State.rxbuf (fun _ _ => rfl) (fun _ _ => rfl) s
@[simp] theorem nextEvent_idx : (nextEvent s).2.idx = s.idx :=
  nextEvent_same State.idx (fun _ _ => rfl) (fun _ _ => rfl) s
@[simp] theorem nextEvent_txbuf : (nextEvent s).2.txbuf = s.txbuf :=
  nextEvent_same State.txbuf (fun _ _ => rfl) (fun _ _ => rfl) s
@[simp] theorem nextEvent_txlen : (nextEvent s).2.txlen = s.txlen :=
  nextEvent_same State.txlen (fun _ _ => rfl) (fun _ _ => rfl) s
@[simp] theorem nextEvent_txcur : (nextEvent s).2.txcur = s.txcur :=
  nextEvent_same State.txcur (fun _ _ => rfl) (fun _ _ => rfl) s
@[simp] theorem nextEvent_txie : (nextEvent s).2.txie = s.txie :=
  nextEvent_same State.txie (fun _ _ => rfl) (fun _ _ => rfl) s
@[simp] theorem nextEvent_rxReady : (nextEvent s).2.rxReady = s.rxReady :=
  nextEvent_same State.rxReady (fun _ _ => rfl) (fun _ _ => rfl) s
@[simp] theorem nextEvent_rxData : (nextEvent s).2.rxData = s.rxData :=
  nextEvent_same State.rxData (fun _ _ => rfl) (fun _ _ => rfl) s
@[simp] theorem nextEvent_txReady : (nextEvent s).2.txReady = s.txReady :=
  nextEvent_same State.txReady (fun _ _ => rfl) (fun _ _ => rfl) s
@[simp] theorem nextEvent_rxie : (nextEvent s).2.rxie = s.rxie :=
  nextEvent_same State.rxie (fun _ _ => rfl) (fun _ _ => rfl) s
@[simp] theorem nextEvent_txtrace : (nextEvent s).2.txtrace = s.txtrace :=
  nextEvent_same State.txtrace (fun _ _ => rfl) (fun _ _ => rfl) s
@[simp] theorem nextEvent_loc : (nextEvent s).2.loc = s.loc :=
  nextEvent_same State.loc (fun _ _ => rfl) (fun _ _ => rfl) s
@[simp] theorem nextEvent_editor : (nextEvent s).2.editor = s.editor :=
  nextEvent_same State.editor (fun _ _ => rfl) (fun _ _ => rfl) s
theorem nextEvent_atReset : (nextEvent s).2.atReset = s.atReset :=
  nextEvent_same State.atReset (fun _ _ => rfl) (fun _ _ => rfl) s
theorem nextEvent_inv : (nextEvent s).2.Inv = s.Inv :=
  nextEvent_same State.Inv (fun _ _ => rfl) (fun _ _ => rfl) s

end

/-! ### What every effect keeps -/

section
variable {e : Event} {s t : State}

/-- The effects of environment events, an arrival, `tx_done` and nothing at all, are on the UART's
fields alone. -/
theorem Effect.environment (h : Effect e s t) (he : isEnvironment e = true) :
    SameBlock s t ∧ t.rxie = s.rxie ∧ t.loc = s.loc := by
  cases h with
  | invoke hinv => rcases hinv with rfl | rfl <;> cases he
  | reset => cases he
  | launch => cases he
  | rest | arrive | txDone => exact ⟨⟨rfl, rfl, rfl, rfl, rfl, rfl, rfl⟩, rfl, rfl⟩

theorem Effect.flags (h : Effect e s t) (he : e ≠ .reset) :
    (s.rxReady = false → t.rxReady = true → ∃ b, e = .rxArrive b) ∧
    (s.rxReady = true → t.rxReady = false → e = .handler ∨ e = .spurious) ∧
    (s.txReady = false → t.txReady = true → e = .txDone) ∧
    (s.txReady = true → t.txReady = false → e = .handler ∨ e = .spurious) ∧
    (t.txie ≠ s.txie → e = .handler ∨ e = .spurious) ∧ (t.rxie ≠ s.rxie → e = .launch) := by
  cases h with
  | rest => simp +contextual
  | invoke hinv _ hrun =>
    have hrx := execOnInterrupt_rxReady hrun
    have hrxie := execOnInterrupt_rxie hrun
    have htx : s.txReady = false → t.txReady ≠ true := by
      rcases execOnInterrupt_sends hrun with ⟨_, h⟩ | ⟨h, _⟩ <;> simp [h]
    exact ⟨fun _ h => by simp [hrx] at h, fun _ _ => hinv, fun h h' => absurd h' (htx h),
      fun _ _ => hinv, fun _ => hinv, fun h => absurd hrxie h⟩
  | arrive b r d n hover => simp +contextual [hover]
  | txDone => simp
  | reset => exact absurd rfl he
  | launch => simp +contextual

theorem Effect.sends (h : Effect e s t) (he : e ≠ .reset) :
    t.txtrace = s.txtrace ∨
    (s.txReady = true ∧ t.txReady = false ∧ ∃ b, t.txtrace = s.txtrace ++ [b]) := by
  cases h with
  | invoke _ _ hrun => exact (execOnInterrupt_sends hrun).imp_left And.left
  | reset => exact absurd rfl he
  | rest | arrive | txDone | launch => exact .inl rfl

theorem Effect.reserved (h : Effect e s t) (hc : s.rxbuf.read (Config.N - 1) = none) :
    t.rxbuf.read (Config.N - 1) = none := by
  cases h with
  | invoke _ _ hrun => exact execOnInterrupt_reserved hrun hc
  | reset => rfl
  | rest | arrive | txDone | launch => exact hc

/-- Launch alone raises `rxie`, from the reset state. -/
theorem Effect.rxie_rises (h : Effect e s t) (hs : s.rxie = false) (ht : t.rxie = true) :
    e = .launch ∧ s.atReset ∧ t = s.setRxie true := by
  cases h with
  | launch hreset => exact ⟨rfl, hreset, rfl⟩
  | invoke _ hrxie => simp [hs] at hrxie
  | reset => simp at ht
  | rest => simp [hs] at ht
  | arrive => simp [hs] at ht
  | txDone => simp [hs] at ht

end

/-! ### The statements -/

/-- Settles O46: an environment event always has an effect, and it is none of the block's. -/
theorem environmentLeavesTheBlockAlone : Obligations.EnvironmentLeavesTheBlockAlone := by
  intro s he
  rcases perform_effect (nextEvent s).1 (nextEvent s).2 with
    ⟨t, ht, heff⟩ | ⟨_, _, h | h⟩ | ⟨_, _, _, h⟩
  · exact ⟨t, ht, by simpa [SameBlock] using heff.environment he⟩
  all_goals rw [h] at he; cases he

/-- Settles O47, effect by effect. -/
theorem flagsMoveOnlyByTheirWriters : Obligations.FlagsMoveOnlyByTheirWriters := by
  intro s t h he
  simpa using (step_effect h).flags he

/-- Settles O48: only an invocation sends, and it sends at most one byte. -/
theorem oneByteSentPerStepAtMost : Obligations.OneByteSentPerStepAtMost := by
  intro s t h he
  simpa using (step_effect h).sends he

/-- Settles O50: only STORE writes the receive buffer, below its guard. -/
theorem reservedCellStaysUnwritten : Obligations.ReservedCellStaysUnwritten := by
  intro s t h hc
  exact (step_effect h).reserved (by simpa using hc)

/-- In the launch state nothing is requested and INV1 to INV4 hold. -/
theorem State.launched_of_atReset {s : State} (h : s.atReset) :
    ((s.setRxie true).setRxie false).atReset ∧ (s.setRxie true).irq = false ∧
    (s.setRxie true).inv1 ∧ (s.setRxie true).inv2 ∧ (s.setRxie true).inv3 ∧
    (s.setRxie true).inv4 := by
  obtain ⟨hidx, hlen, hcur, hie, hrx, htx, _, htrace⟩ := h
  refine ⟨⟨hidx, hlen, hcur, hie, hrx, htx, rfl, htrace⟩, ?_, ?_, ?_, ?_, ?_⟩
  · simp [State.irq, hrx, hie]
  · simp [State.inv1, hidx]
  · simp [State.inv2, hcur, hlen]
  · simp [State.inv3, hie, hlen]
  · simp [State.inv4, hlen]

/-- Settles O55: the only effect that raises `rxie` is a launch in the reset state. -/
theorem launchLeadsFromResetToLaunchState : Obligations.LaunchLeadsFromResetToLaunchState := by
  intro s t h hs ht
  obtain ⟨he, hreset, rfl⟩ := (step_effect h).rxie_rises (by simpa using hs) ht
  obtain ⟨hreset', hirq, hinv⟩ := State.launched_of_atReset hreset
  rw [nextEvent_atReset] at hreset
  exact ⟨he, hreset, hreset', by simp, by simp, by simp, by simp, hirq, hinv⟩

end Sys2Proof.Machine
end

section
/-! PROOFS. The invariant (10_state.md R22): the two halves of an invocation keep what it says of
the block, every effect keeps it, and a step from it never stops. -/

namespace Sys2Proof.Machine

/-- What the invariant says of the block's own state, at any moment of an invocation. -/
structure State.BlockInv (s : State) : Prop where
  inv1 : s.inv1
  inv2 : s.inv2
  inv3 : s.inv3
  inv4 : s.inv4
  memoryWf : s.memoryWf
  lineWritten : s.lineWritten

theorem State.inv_iff {s : State} :
    s.Inv ↔ s.BlockInv ∧ s.preLaunchAtReset ∧ s.loc = Locals.clear :=
  ⟨fun ⟨h1, h2, h3, h4, hwf, hline, hpre, hloc⟩ => ⟨⟨h1, h2, h3, h4, hwf, hline⟩, hpre, hloc⟩,
    fun ⟨⟨h1, h2, h3, h4, hwf, hline⟩, hpre, hloc⟩ => ⟨h1, h2, h3, h4, hwf, hline, hpre, hloc⟩⟩

theorem State.Inv.block {s : State} (h : s.Inv) : s.BlockInv := (State.inv_iff.mp h).1

theorem State.Inv.loc_clear {s : State} (h : s.Inv) : s.loc = Locals.clear :=
  (State.inv_iff.mp h).2.2

/-- Before launch nothing is enabled, so nothing is requested. -/
theorem State.Inv.irq_of_not_launched {s : State} (h : s.Inv) (hx : s.rxie = false) :
    s.irq = false := by
  obtain ⟨_, _, _, hie⟩ := (State.inv_iff.mp h).2.1 hx
  simp [State.irq, hx, hie]

/-! ### An invocation -/

section
variable {s t : State}

theorem nextIdx_le {idx : Nat} (b : Byte) (h : idx ≤ Config.N - 1) :
    nextIdx idx b ≤ Config.N - 1 := by
  unfold nextIdx
  cases classify b with
  | enter => exact Nat.zero_le _
  | erase => dsimp only; omega
  | other => dsimp only; split <;> omega

theorem nextRxbuf_wf (b : Byte) (h : s.rxbuf.wf Config.N = true) :
    (nextRxbuf s b).wf Config.N = true := by
  unfold nextRxbuf
  cases classify b with
  | enter => exact h
  | erase => exact h
  | other =>
    dsimp only
    split
    · exact Memory.wf_write b h (room_lt ‹_›)
    · exact h

theorem rxState_txbuf_wf (h : s.txbuf.wf Config.TXCAP = true) :
    (rxState s).txbuf.wf Config.TXCAP = true := by
  rcases rxState_staging s with ⟨_, hbuf, _⟩ | ⟨_, hbuf, _⟩
  · rw [hbuf]; exact h
  · rw [hbuf]
    exact Memory.wf_writeSeq _ h (by simpa using response_length s.idx s.rxData)

/-- A staged response is not empty, and STAGE enables the interrupt; without one, nothing moves. -/
theorem rxState_inv3 (h : s.inv3) : (rxState s).inv3 := by
  rcases rxState_staging s with ⟨_, _, hlen, hcur, hie⟩ | ⟨hq, _, hlen, hcur, hie⟩
  · simpa [State.inv3, hlen, hcur, hie] using h
  · simpa [State.inv3, hlen, hcur, hie] using List.length_pos_iff.mpr hq

theorem rxState_line (h : s.lineWritten) :
    (rxState s).line = editLine s.line s.rxData ∧ (rxState s).lineWritten :=
  State.line_next h s.rxData (rxState_rxbuf s) (rxState_idx s)

theorem rxState_blockInv (h : s.BlockInv) : (rxState s).BlockInv where
  inv1 := by simpa [State.inv1] using nextIdx_le s.rxData h.inv1
  inv2 := (rxState_inv24 h.inv2 h.inv4).1
  inv3 := rxState_inv3 h.inv3
  inv4 := (rxState_inv24 h.inv2 h.inv4).2
  memoryWf := ⟨by simpa using nextRxbuf_wf s.rxData h.memoryWf.1, rxState_txbuf_wf h.memoryWf.2⟩
  lineWritten := (rxState_line h.lineWritten).2

/-- The last byte of a response clears `txie`, as INV3 wants. -/
theorem txState_blockInv (b : Byte) (h : s.BlockInv) (hp : s.txcur < s.txlen) :
    (txState b s).BlockInv where
  inv1 := h.inv1
  inv2 := ⟨hp, h.inv2.2⟩
  inv3 := by
    have hie : s.txie = true := h.inv3.mpr hp
    simp only [State.inv3, txState, State.setTxie_txie, State.setTxie_txcur, State.setTxcur_txcur,
      State.setTxie_txlen, State.setTxcur_txlen, State.setTxtrace_txlen, State.setTxReady_txlen]
    split
    · simp only [Bool.false_eq_true, false_iff]; omega
    · simp only [hie, true_iff]; omega
  inv4 := h.inv4
  memoryWf := h.memoryWf
  lineWritten := h.lineWritten

theorem finishInvocation_blockInv (hi : s.BlockInv) (h : finishInvocation s = .next t) :
    t.BlockInv := by
  rcases finishInvocation_eq_next h with ⟨_, rfl⟩ | ⟨_, hp, _, b, _, rfl⟩
  · exact ⟨hi.inv1, hi.inv2, hi.inv3, hi.inv4, hi.memoryWf, hi.lineWritten⟩
  · have ht := txState_blockInv b hi hp
    exact ⟨ht.inv1, ht.inv2, ht.inv3, ht.inv4, ht.memoryWf, ht.lineWritten⟩

theorem execOnInterrupt_blockInv (hi : s.BlockInv) (h : execOnInterrupt s = .next t) :
    t.BlockInv := by
  obtain ⟨u, hu, ⟨_, rfl⟩ | ⟨_, rfl⟩⟩ := execOnInterrupt_halfway h
  · exact finishInvocation_blockInv (rxState_blockInv hi) hu
  · exact finishInvocation_blockInv hi hu

theorem execOnInterrupt_loc (h : execOnInterrupt s = .next t) : t.loc = Locals.clear := by
  obtain ⟨u, hu, _⟩ := execOnInterrupt_halfway h
  obtain ⟨_, _, _, _, _, _, _, _, _, hloc⟩ := finishInvocation_keeps hu
  exact hloc

/-- An invocation from launch on keeps the invariant. -/
theorem execOnInterrupt_inv (hi : s.Inv) (hx : s.rxie = true) (h : execOnInterrupt s = .next t) :
    t.Inv := by
  have hrxie := execOnInterrupt_rxie h
  refine State.inv_iff.mpr ⟨execOnInterrupt_blockInv hi.block h, fun hf => ?_,
    execOnInterrupt_loc h⟩
  rw [hrxie, hx] at hf
  cases hf

/-- An invocation from a state that meets the invariant ends in a next state. -/
theorem State.Inv.invocation_next (h : s.Inv) : ∃ t, execOnInterrupt s = .next t :=
  execOnInterrupt_next h.block.inv2 h.block.inv4

end

/-! ### Every effect, every step -/

theorem State.reset_inv : State.reset.Inv :=
  ⟨by simp [State.inv1], by simp [State.inv2], by simp [State.inv3], by simp [State.inv4],
    ⟨rfl, rfl⟩, by simp [State.lineWritten], fun _ => ⟨rfl, rfl, rfl, rfl⟩, rfl⟩

/-- The invariant says nothing of the UART's data, nothing of its two flags, and of `rxie` only what
holds while it is 0; so the invocation and reset are the only effects with something to show. -/
theorem Effect.inv {e : Event} {s t : State} (h : Effect e s t) (hi : s.Inv) : t.Inv := by
  cases h with
  | rest => exact hi
  | invoke _ hrxie hrun => exact execOnInterrupt_inv hi hrxie hrun
  | arrive => exact hi
  | txDone => exact hi
  | reset => exact State.reset_inv
  | launch =>
    obtain ⟨⟨h1, h2, h3, h4, hwf, hline⟩, _, hloc⟩ := State.inv_iff.mp hi
    exact ⟨h1, h2, h3, h4, hwf, hline, (fun hf => by cases hf), hloc⟩

/-- A step from a state that meets the invariant ends in a next state, by an effect of its event. -/
theorem State.Inv.step_effect {s : State} (hi : s.Inv) :
    ∃ t, step s = .next t ∧ Effect (nextEvent s).1 (nextEvent s).2 t := by
  have hu : (nextEvent s).2.Inv := by rw [nextEvent_inv]; exact hi
  rcases perform_effect (nextEvent s).1 (nextEvent s).2 with
    heff | ⟨hrxie, hrun, he⟩ | ⟨hirq, hrxie, _⟩
  · exact heff
  · obtain ⟨t, ht⟩ := hu.invocation_next
    exact ⟨t, hrun.trans ht, .invoke he hrxie ht⟩
  · rw [hu.irq_of_not_launched hrxie] at hirq
    cases hirq

/-- Settles O38: the reset values meet every clause. -/
theorem resetStateMeetsInvariant : Obligations.ResetStateMeetsInvariant := State.reset_inv

/-- Settles O44: the step is an effect of its event, and every effect keeps the invariant. -/
theorem everyStepKeepsInvariant : Obligations.EveryStepKeepsInvariant := by
  intro s t hi h
  exact (step_effect h).inv (by rw [nextEvent_inv]; exact hi)

/-- Settles O45: INV2 and INV4 keep an invocation from a fault, the reset values before launch keep
the service from being refused. -/
theorem invariantStatesAlwaysStep : Obligations.InvariantStatesAlwaysStep := by
  intro s hi
  obtain ⟨t, ht, _⟩ := hi.step_effect
  exact ⟨t, ht⟩

/-- The line after an invocation that receives a byte is the edited line. -/
theorem execOnInterrupt_line {s t : State} (hi : s.BlockInv) (hr : s.rxReady = true)
    (h : execOnInterrupt s = .next t) : t.line = editLine s.line s.rxData := by
  rw [execOnInterrupt_of_byte hr] at h
  obtain ⟨hrxbuf, hidx, _⟩ := finishInvocation_keeps h
  have hline : t.line = (rxState s).line := by rw [State.line, State.line, hrxbuf, hidx]
  rw [hline, (rxState_line hi.lineWritten).1]

/-- Settles O23: only the RX reaction edits the line, and every cell of the line has been written,
so that its length is `idx`. -/
theorem invocationEditsTheLine : Obligations.InvocationEditsTheLine := by
  intro s hi hr
  obtain ⟨t, ht⟩ := hi.invocation_next
  exact ⟨t, ht, execOnInterrupt_rxReady ht, execOnInterrupt_line hi.block hr ht,
    State.line_length (execOnInterrupt_blockInv hi.block ht).lineWritten⟩

end Sys2Proof.Machine
end

section
/-! PROOFS. ON_INTERRUPT (42_on_interrupt.md sections 1 and 4): which reactions an invocation runs,
and the rows of the table of its effects, by whether a byte waits, whether its arm stages and
whether the transmitter is ready. -/

namespace Sys2Proof.Machine

/-! ### The fields of the state TXDRAIN leaves -/

section
variable (b : Byte) (s : State)

@[simp] theorem txState_rxbuf : (txState b s).rxbuf = s.rxbuf := rfl
@[simp] theorem txState_idx : (txState b s).idx = s.idx := rfl
@[simp] theorem txState_txbuf : (txState b s).txbuf = s.txbuf := rfl
@[simp] theorem txState_txlen : (txState b s).txlen = s.txlen := rfl
@[simp] theorem txState_txcur : (txState b s).txcur = s.txcur + 1 := rfl
@[simp] theorem txState_rxReady : (txState b s).rxReady = s.rxReady := rfl
@[simp] theorem txState_rxData : (txState b s).rxData = s.rxData := rfl
@[simp] theorem txState_txReady : (txState b s).txReady = false := rfl
@[simp] theorem txState_rxie : (txState b s).rxie = s.rxie := rfl
@[simp] theorem txState_txtrace : (txState b s).txtrace = s.txtrace ++ [b] := rfl
@[simp] theorem txState_loc : (txState b s).loc = s.loc := rfl
@[simp] theorem txState_script : (txState b s).script = s.script := rfl
@[simp] theorem txState_draws : (txState b s).draws = s.draws := rfl

/-- The enable: cleared by the last byte alone. -/
theorem txState_txie :
    (s.txcur + 1 = s.txlen → (txState b s).txie = false) ∧
    (s.txcur + 1 ≠ s.txlen → (txState b s).txie = s.txie) :=
  ⟨fun h => if_pos h, fun h => if_neg h⟩

@[simp] theorem State.setLoc_pendingBytes (l : Locals) :
    (s.setLoc l).pendingBytes = s.pendingBytes := rfl

end

/-! ### The reactions that the status pair selects -/

/-- The RX reaction and then the second half, begun with any transients, are the invocation. -/
theorem rxReact_finishInvocation (s : State) (l : Locals) :
    andThen (exec .rxReact (s.setLoc l)) finishInvocation = execOnInterrupt s := by
  have hexec : exec .rxReact (s.setLoc l) = execRxReact (s.setLoc l) := rfl
  rw [hexec, execRxReact_eq, andThen_next, execOnInterrupt_eq, State.setLoc_rxReady]
  split
  · rw [rxState_setLoc, finishInvocation_setLoc]
  · rw [finishInvocation_setLoc]

/-- TXDRAIN asks itself whether a byte is pending: asking beforehand makes no difference. -/
theorem txDrain_guarded (p : Prop) [Decidable p] (s : State) :
    (if p ∧ s.txcur < s.txlen then exec .txDrain s else .next s) =
      if p then exec .txDrain s else .next s := by
  by_cases hp : s.txcur < s.txlen
  · simp [hp]
  · have hnone : exec .txDrain s = .next s := execTxDrain_none (.inr (not_lt.mp hp))
    simp [hnone]

/-- Nor does asking whether the transmitter is ready. -/
theorem txDrain_guarded_txReady (s : State) :
    (if s.txReady = true then exec .txDrain s else .next s) = exec .txDrain s := by
  split
  · rfl
  · exact (execTxDrain_none (.inl (Bool.not_eq_true _ ▸ ‹_›))).symm

/-- So has the RX reaction, in the state that the status was read in. -/
theorem rxReact_guarded (s : State) :
    (if s.rxReady = true then exec .rxReact s else .next s) = exec .rxReact s := by
  split
  · rfl
  · exact (if_neg ‹_›).symm

theorem exec_rxReact_txReady {s t : State} (h : exec .rxReact s = .next t) :
    t.txReady = s.txReady := by
  have hexec : exec .rxReact s = execRxReact s := rfl
  rw [hexec, execRxReact_eq] at h
  cases h
  split <;> simp

theorem andThen_congr {o : Result} {f g : State → Result}
    (h : ∀ t, o = .next t → f t = g t) : andThen o f = andThen o g := by
  cases o with
  | next t => exact h t rfl
  | fault | refused => rfl

/-- ON_INTERRUPT as the composition of its operations (42_on_interrupt.md R75). -/
theorem exec_onInterrupt_andThen (s : State) :
    exec .onInterrupt s =
      andThen (exec .riReadStatus (s.setLoc Locals.clear)) (fun s1 =>
      andThen (if s.rxReady = true then exec .rxReact s1 else .next s1) fun s2 =>
      andThen (if s.txReady = true ∧ s2.txcur < s2.txlen then exec .txDrain s2 else .next s2)
        fun s3 => .next (s3.setLoc Locals.clear)) := by
  have hread : ∃ l, exec .riReadStatus (s.setLoc Locals.clear) = .next (s.setLoc l) := ⟨_, rfl⟩
  obtain ⟨l, hl⟩ := hread
  have hrx := rxReact_guarded (s.setLoc l)
  rw [State.setLoc_rxReady] at hrx
  rw [exec_onInterrupt, ← rxReact_finishInvocation s l, hl, andThen_next, hrx]
  refine andThen_congr fun t ht => ?_
  have htx : t.txReady = s.txReady := exec_rxReact_txReady (s := s.setLoc l) ht
  rw [txDrain_guarded, ← htx, txDrain_guarded_txReady]
  rfl

theorem decodeStatus_word (s : State) :
    decodeStatus s.status.word =
      (if s.rxReady = true then [.rxReact] else []) ++
        (if s.txReady = true then [.txDrain] else []) := by
  have hword : ∀ r x : Bool, decodeStatus (Status.word ⟨r, x⟩) =
      (if r = true then [.rxReact] else []) ++ (if x = true then [.txDrain] else []) := by decide
  exact hword s.rxReady s.txReady

theorem runAll_append (is js : List Instr) (s : State) :
    runAll (is ++ js) s = andThen (runAll is s) (runAll js) := by
  induction is generalizing s with
  | nil => rfl
  | cons i is ih =>
    rw [List.cons_append, runAll, runAll, andThen_assoc]
    exact andThen_congr fun t _ => ih t

theorem runAll_singleton (i : Instr) (s : State) : runAll [i] s = exec i s := by
  rw [runAll]
  cases exec i s <;> rfl

theorem runAll_ite (p : Prop) [Decidable p] (i : Instr) (s : State) :
    runAll (if p then [i] else []) s = if p then exec i s else .next s := by
  split
  · exact runAll_singleton i s
  · rfl

/-- Settles O18: TXDRAIN's own guard on the state it finds is the sample's, since the RX reaction
leaves `tx_ready` alone; and the decoded pair is the list of the two guarded reactions. -/
theorem statusPairSelectsTheReactions : Obligations.StatusPairSelectsTheReactions := by
  intro s
  refine ⟨exec_onInterrupt_andThen s, decodeStatus_word s, ?_⟩
  rw [exec_onInterrupt_andThen, decodeStatus_word, andThen_assoc]
  refine andThen_congr fun s1 _ => ?_
  rw [runAll_append, runAll_ite, andThen_assoc]
  refine andThen_congr fun s2 _ => ?_
  rw [txDrain_guarded, runAll_ite]

/-! ### No byte waits -/

/-- What an invocation sends when no byte waits. -/
theorem execOnInterrupt_send {s : State} {b : Byte} (h : s.rxReady = false)
    (hr : s.txReady = true) (hp : s.txcur < s.txlen) (hc : s.txcur < Config.TXCAP)
    (hb : s.txbuf.read s.txcur = some b) :
    execOnInterrupt s = .next ((txState b s).setLoc Locals.clear) := by
  rw [execOnInterrupt_of_no_byte h, finishInvocation_send hr hp hc hb]

theorem execOnInterrupt_none {s : State} (h : s.rxReady = false)
    (hg : s.txReady = false ∨ s.txlen ≤ s.txcur) :
    execOnInterrupt s = .next (s.setLoc Locals.clear) := by
  rw [execOnInterrupt_of_no_byte h, finishInvocation_none hg]

/-- Settles O16: the closed form `txState`, field by field. -/
theorem txDrainSendsOneByte : Obligations.TxDrainSendsOneByte := by
  intro b s hr hp hc hb
  obtain ⟨hlast, hmore⟩ := txState_txie b s
  refine ⟨txState b s, execTxDrain_send hr hp hc hb, ?_⟩
  simpa [SameModel] using ⟨hlast, hmore, hp⟩

/-- Settles O17: each alternative is one half of the guard. -/
theorem txDrainGuardFalseDoesNothing : Obligations.TxDrainGuardFalseDoesNothing :=
  fun _ h => execTxDrain_none h

/-- Settles O19: without a byte an invocation is TXDRAIN and the end. -/
theorem invocationWithoutByte : Obligations.InvocationWithoutByte := by
  intro s h
  refine ⟨execOnInterrupt_none h, fun b hr hp hc hb => ?_⟩
  obtain ⟨hlast, hmore⟩ := txState_txie b s
  refine ⟨_, execOnInterrupt_send h hr hp hc hb, ?_⟩
  simpa [SameModel] using And.intro hlast hmore

/-- From launch on a waiting byte requests an interrupt. -/
theorem State.no_byte_of_irq {s : State} (hx : s.rxie = true) (hirq : s.irq = false) :
    s.rxReady = false :=
  Bool.eq_false_of_not_eq_true fun hr => by simp [State.irq, hr, hx] at hirq

/-- Under the invariant with `irq = 0` neither reaction's guard holds: no byte waits and, by INV3, a
ready transmitter has nothing pending. -/
theorem State.Inv.idle_of_irq {s : State} (hi : s.Inv) (hx : s.rxie = true)
    (hirq : s.irq = false) : s.rxReady = false ∧ (s.txReady = false ∨ s.txlen ≤ s.txcur) := by
  refine ⟨State.no_byte_of_irq hx hirq, ?_⟩
  cases ht : s.txReady with
  | false => exact .inl rfl
  | true =>
    refine .inr (not_lt.mp fun hp => ?_)
    have hie : s.txie = true := hi.block.inv3.mpr hp
    simp [State.irq, ht, hie] at hirq

theorem State.setLoc_loc_self {s : State} {l : Locals} (h : s.loc = l) : s.setLoc l = s := by
  subst h
  rfl

/-- Settles O25: neither reaction runs, and the transients are clear already. -/
theorem spuriousInvocationIsHarmless : Obligations.SpuriousInvocationIsHarmless := by
  intro s hi hx hirq
  obtain ⟨hr, hg⟩ := hi.idle_of_irq hx hirq
  rw [exec_onInterrupt, execOnInterrupt_none hr hg, State.setLoc_loc_self hi.loc_clear]

/-! ### A byte whose arm does not stage -/

/-- A silent drop consumes the byte; for the rest it moves transients alone. -/
theorem rxState_of_response_eq_nil {s : State} (h : response s.idx s.rxData = []) :
    ∃ l, rxState s = (s.setRxReady false).setLoc l := by
  obtain ⟨hidx, hrxbuf⟩ := next_of_response_eq_nil h
  refine ⟨{ s.loc with c := s.rxData, staged := false }, ?_⟩
  unfold rxState
  dsimp only
  rw [if_pos h, hidx, hrxbuf]
  rfl

/-- Settles O20: the second half of the invocation does not look at the transients. -/
theorem silentDropOnlyConsumesTheByte : Obligations.SilentDropOnlyConsumesTheByte := by
  intro s hr hdrop
  have hq : response s.idx s.rxData = [] := by
    rcases hdrop with ⟨hc, hi⟩ | ⟨hc, hi⟩
    · rw [hi, response_erase_empty hc]
    · exact response_other_full hc hi
  obtain ⟨l, hl⟩ := rxState_of_response_eq_nil hq
  calc exec .onInterrupt s = finishInvocation (rxState s) := execOnInterrupt_of_byte hr
    _ = finishInvocation (s.setRxReady false) := by rw [hl, finishInvocation_setLoc]
    _ = exec .onInterrupt (s.setRxReady false) := (execOnInterrupt_of_no_byte rfl).symm

/-! ### A byte whose arm stages -/

/-- When an arm stages, the receive buffer is written by STORE alone, and STORE has room. -/
theorem read_rxState_rxbuf {s : State} (h : response s.idx s.rxData ≠ []) (a : Nat) :
    (rxState s).rxbuf.read a =
      if classify s.rxData = .other ∧ a = s.idx then some s.rxData else s.rxbuf.read a := by
  have hroom : classify s.rxData = .other → s.idx < Config.N - 1 := fun hc =>
    not_le.mp fun hle => h (response_other_full hc hle)
  rw [rxState_rxbuf, read_nextRxbuf]
  by_cases hc : classify s.rxData = .other
  · simp [hc, hroom hc]
  · simp [hc]

theorem read_rxState_txbuf {s : State} (h : response s.idx s.rxData ≠ []) (a : Nat) :
    (rxState s).txbuf.read a =
      if a < (response s.idx s.rxData).length then (response s.idx s.rxData)[a]?
      else s.txbuf.read a := by
  obtain ⟨_, _, _, hcells, hbeyond⟩ := rxState_staged rfl h
  split
  · exact hcells a ‹_›
  · exact hbeyond a (not_lt.mp ‹_›)

/-- An invocation with a byte that stages and a busy transmitter. -/
theorem execOnInterrupt_staged_busy {s : State} (hr : s.rxReady = true) (ht : s.txReady = false) :
    execOnInterrupt s = .next ((rxState s).setLoc Locals.clear) := by
  rw [execOnInterrupt_of_byte hr, finishInvocation_none (.inl (by simpa using ht))]

/-- The state after an invocation that has received a byte and sent `b`, the first byte of its
response. -/
def answeredState (b : Byte) (s : State) : State := (txState b (rxState s)).setLoc Locals.clear

/-- An invocation with a byte that stages and a ready transmitter sends the response's first byte.
-/
theorem execOnInterrupt_staged_ready {s : State} {b : Byte} {q : List Byte}
    (hr : s.rxReady = true) (ht : s.txReady = true) (hq : response s.idx s.rxData = b :: q) :
    execOnInterrupt s = .next (answeredState b s) := by
  obtain ⟨hlen, hcur, _, hcells, _⟩ := rxState_staged hq (by simp)
  rw [execOnInterrupt_of_byte hr]
  refine finishInvocation_send (by simpa using ht) ?_ ?_ ?_
  · simp [hcur, hlen]
  · simp [hcur, Config.TXCAP]
  · simpa [hcur] using hcells 0 (by simp)

/-- What stays of a response after its first byte. -/
theorem answeredState_rest {s : State} {b : Byte} {q : List Byte}
    (hq : response s.idx s.rxData = b :: q) :
    (answeredState b s).pendingBytes = q ∧ (answeredState b s).txcur = 1 ∧
    (answeredState b s).txlen = q.length + 1 ∧ (answeredState b s).txie = (q != []) := by
  have hne : response s.idx s.rxData ≠ [] := by simp [hq]
  obtain ⟨hlen, hcur, hie, hcells, hpend⟩ := rxState_cells hne
  rw [hq] at hlen hcells hpend
  have hread : (rxState s).txbuf.read (rxState s).txcur = some b := by
    simpa [hcur] using hcells 0 (by simp)
  have hcons := State.pendingBytes_cons (t := txState b (rxState s)) (by simp [hcur, hlen])
    hread (txState_txbuf _ _) (txState_txlen _ _) (txState_txcur _ _)
  unfold answeredState
  refine ⟨by simpa [hpend] using hcons.symm, by simp [hcur], by simp [hlen], ?_⟩
  cases q <;> simp [txState, hcur, hlen, hie]

theorem answeredState_keeps (b : Byte) (s : State) :
    (answeredState b s).rxReady = false ∧ (answeredState b s).txReady = false ∧
    (answeredState b s).txtrace = s.txtrace ++ [b] ∧
    (answeredState b s).rxbuf = (rxState s).rxbuf ∧ (answeredState b s).txbuf = (rxState s).txbuf ∧
    (answeredState b s).idx = nextIdx s.idx s.rxData ∧ (answeredState b s).rxData = s.rxData ∧
    (answeredState b s).rxie = s.rxie ∧ (answeredState b s).loc = Locals.clear ∧
    SameModel s (answeredState b s) := by
  simp [answeredState, SameModel]

/-- Settles O21: the byte is staged by the RX reaction, and the TX reaction's guard fails. -/
theorem stagingInvocationTransmitterBusy : Obligations.StagingInvocationTransmitterBusy := by
  intro s hr ht hne
  obtain ⟨hlen, hcur, hie, _, hpend⟩ := rxState_cells hne
  refine ⟨_, execOnInterrupt_staged_busy hr ht, by simp, by simp [ht], by simp, by simp [hpend],
    by simp [hcur], by simp [hlen], by simp [hie], fun a => ?_, fun a => ?_, by simp, by simp,
    by simp, rfl, by simp [SameModel]⟩
  · simpa using read_rxState_rxbuf hne a
  · simpa using read_rxState_txbuf hne a

/-- Settles O22: the TX reaction finds the response staged, and sends its first byte. -/
theorem stagingInvocationSendsTheFirstByte : Obligations.StagingInvocationSendsTheFirstByte := by
  intro s b q hr ht hq
  have hne : response s.idx s.rxData ≠ [] := by simp [hq]
  obtain ⟨hpend, hcur, hlen, hie⟩ := answeredState_rest hq
  obtain ⟨hrx, htx, htrace, hrxbuf, htxbuf, hidx, hdata, hrxie, hloc, hmodel⟩ :=
    answeredState_keeps b s
  refine ⟨_, execOnInterrupt_staged_ready hr ht hq, hrx, htx, htrace, hpend, hcur, hlen, hie,
    ?_, ?_, hidx, hdata, hrxie, hloc, hmodel⟩
  · rw [hrxbuf]
    exact read_rxState_rxbuf hne
  · rw [htxbuf]
    exact read_rxState_txbuf hne

/-! ### Hazards H1 and H3 -/

/-- What has been emitted after an invocation whose byte stages: the unsent bytes are lost. -/
theorem execOnInterrupt_emitted_staged {s t : State} (hr : s.rxReady = true)
    (hne : response s.idx s.rxData ≠ []) (h : execOnInterrupt s = .next t) :
    t.emitted = s.txtrace ++ response s.idx s.rxData := by
  rw [execOnInterrupt_of_byte hr] at h
  obtain ⟨_, _, _, _, hpend⟩ := rxState_cells hne
  rw [finishInvocation_emitted h, State.emitted, hpend, rxState_txtrace]

/-- Settles O24: the RX reaction stages over the pending bytes before the TX reaction looks. -/
theorem stagingOverwriteLosesTheUnsentBytes : Obligations.StagingOverwriteLosesTheUnsentBytes := by
  intro s hi hr hp hne
  have hlen := State.pendingBytes_length hi.block.inv4 hi.block.inv2.1
  obtain ⟨t, ht⟩ := hi.invocation_next
  exact ⟨List.length_pos_iff.mp (by omega), t, ht, execOnInterrupt_emitted_staged hr hne ht⟩

theorem State.storm_iff {s : State} :
    s.storm = true ↔ s.txie = true ∧ s.txReady = true ∧ s.txcur = s.txlen := by
  simp [State.storm, and_assoc]

/-- A handler step in the storm state, with no byte and clear transients, does nothing. -/
theorem step_handler_storm {s : State} {rest : List Event} (hs : s.script = .handler :: rest)
    (hstorm : s.storm = true) (hr : s.rxReady = false) (hx : s.rxie = true)
    (hloc : s.loc = Locals.clear) : step s = .next (s.setScript rest) := by
  obtain ⟨hie, ht, hcur⟩ := State.storm_iff.mp hstorm
  have hirq : s.irq = true := by simp [State.irq, hie, ht]
  have hrun : exec .onInterrupt (s.setScript rest) = _ :=
    execOnInterrupt_none (s := s.setScript rest) hr (.inr hcur.ge)
  rw [step_handler_enabled hs hirq hx, hrun]
  exact congrArg Host.Outcome.next (State.setLoc_loc_self (s := s.setScript rest) hloc)

/-- Settles O26, by induction on the number of steps. -/
theorem stormNeverEndsByItself : Obligations.StormNeverEndsByItself := by
  intro s k hstorm hr hx hloc
  obtain ⟨hie, ht, _⟩ := State.storm_iff.mp hstorm
  refine ⟨by simp [State.irq, hie, ht], ?_⟩
  induction k with
  | zero => rfl
  | succ k ih =>
    have hstep := step_handler_storm (s := s.setScript (List.replicate (k + 1) .handler)) rfl
      hstorm hr hx hloc
    rw [runSteps_succ k hstep]
    exact ih

/-- Settles O27: the storm's ready transmitter takes the first byte of the response, and is busy. -/
theorem stagedByteEndsTheStorm : Obligations.StagedByteEndsTheStorm := by
  intro s hstorm hr hne
  obtain ⟨_, ht, _⟩ := State.storm_iff.mp hstorm
  obtain ⟨b, q, hq⟩ := List.exists_cons_of_ne_nil hne
  obtain ⟨_, hcur, hlen, hie⟩ := answeredState_rest hq
  refine ⟨_, execOnInterrupt_staged_ready hr ht hq, ?_, ?_⟩
  · rw [State.inv3, hie, hcur, hlen]
    cases q <;> simp
  · obtain ⟨_, hbusy, _⟩ := answeredState_keeps b s
    simp [State.storm, hbusy]

end Sys2Proof.Machine
end

section
/-! PROOFS. The line editor seen from the wire (70_reset_and_hazards.md R114): every effect is the
editor's move, and runs of the handler are taken round by round. -/

namespace Sys2Proof.Machine

/-! ### The refinement -/

section
variable {s t : State}

/-- (P-b): an earlier response is drained when a byte whose arm stages is served. -/
def Drained (s : State) : Prop :=
  s.rxReady = true → response s.idx s.rxData ≠ [] → s.txcur = s.txlen

/-- What has been emitted after an invocation that receives a byte: the response is added, in full.
-/
theorem execOnInterrupt_emitted_byte (hr : s.rxReady = true) (hd : Drained s)
    (h : execOnInterrupt s = .next t) : t.emitted = s.emitted ++ response s.idx s.rxData := by
  by_cases hq : response s.idx s.rxData = []
  · obtain ⟨_, _, htxbuf, htxlen, htxcur, _⟩ := rxState_sameBlock hq
    rw [execOnInterrupt_of_byte hr] at h
    rw [finishInvocation_emitted h, State.emitted, State.emitted, rxState_txtrace,
      State.pendingBytes_congr htxbuf htxlen htxcur, hq, List.append_nil]
  · rw [execOnInterrupt_emitted_staged hr hq h, State.emitted,
      State.pendingBytes_nil (hd hr hq).ge, List.append_nil]

theorem execOnInterrupt_emitted_no_byte (hr : s.rxReady = false)
    (h : execOnInterrupt s = .next t) : t.emitted = s.emitted :=
  finishInvocation_emitted (execOnInterrupt_of_no_byte hr ▸ h)

theorem execOnInterrupt_idx (h : execOnInterrupt s = .next t) :
    t.idx = if s.rxReady = true then nextIdx s.idx s.rxData else s.idx := by
  obtain ⟨u, hu, hcase⟩ := execOnInterrupt_halfway h
  obtain ⟨_, hidx, _⟩ := finishInvocation_keeps hu
  rcases hcase with ⟨hr, rfl⟩ | ⟨hr, rfl⟩ <;> simp [hidx, hr]

/-- An invocation from launch on is the editor serving its waiting byte. -/
theorem execOnInterrupt_editor (hx : s.rxie = true) (hd : Drained s)
    (h : execOnInterrupt s = .next t) : t.editor = s.editor.serve := by
  have hrxie := execOnInterrupt_rxie h
  have hrx := execOnInterrupt_rxReady h
  have hidx := execOnInterrupt_idx h
  cases hr : s.rxReady with
  | false =>
    have hout := execOnInterrupt_emitted_no_byte hr h
    simp [State.editor, Editor.serve, hrxie, hrx, hidx, hout, hx, hr]
  | true =>
    have hout := execOnInterrupt_emitted_byte hr hd h
    simp [State.editor, Editor.serve, hrxie, hrx, hidx, hout, hx, hr]

/-- Where no invocation runs, the editor has nothing to serve. -/
theorem editor_serve_idle (h : s.rxie = false ∨ s.irq = false) : s.editor.serve = s.editor := by
  cases hx : s.rxie with
  | false => simp [State.editor, Editor.serve, hx]
  | true =>
    have hirq : s.irq = false := h.resolve_left (by simp [hx])
    simp [State.editor, Editor.serve, State.no_byte_of_irq hx hirq]

/-- Under the pacing premise every effect is the editor's move. -/
theorem Effect.editor {e : Event} (h : Effect e s t) (hp : Paced e s) :
    t.editor = Editor.move e s.editor := by
  cases h with
  | rest hreset hinvoke harrive hlaunch =>
    cases e with
    | handler => exact (editor_serve_idle (hinvoke (.inl rfl))).symm
    | spurious => exact (editor_serve_idle (hinvoke (.inr rfl))).symm
    | rxArrive b =>
      have hr : s.rxReady = false := hp
      simp [harrive b rfl] at hr
    | txDone => rfl
    | idle => rfl
    | reset => exact absurd rfl hreset
    | launch =>
      rcases hp with hx | hr
      · simp [State.editor, Editor.move, hx]
      · rw [State.readyToLaunch_iff.mpr hr] at hlaunch
        cases hlaunch rfl
  | invoke he hrxie hrun => rcases he with rfl | rfl <;> exact execOnInterrupt_editor hrxie hp hrun
  | arrive b r d n _ hfree =>
    obtain ⟨rfl, rfl⟩ := hfree hp
    rfl
  | txDone => rfl
  | reset => rfl
  | launch => rfl

end

theorem nextEvent_paced (e : Event) (s : State) : Paced e (nextEvent s).2 = Paced e s :=
  nextEvent_same (Paced e) (fun _ _ => rfl) (fun _ _ => rfl) s

/-- Settles O51: from the invariant there is a next state, it is an effect of the event, and the
effect is the editor's move. -/
theorem pacedStepsRefineTheLineEditor : Obligations.PacedStepsRefineTheLineEditor := by
  intro s hi hp
  obtain ⟨t, ht, heff⟩ := hi.step_effect
  have hed := heff.editor (by rw [nextEvent_paced]; exact hp)
  exact ⟨t, ht, by rw [hed, nextEvent_editor]⟩

/-! ### Single steps of a script -/

/-- `tx_done` leaves the transmitter ready, whether or not it was so before. -/
theorem step_txDone {s : State} {rest : List Event} (hs : s.script = .txDone :: rest) :
    step s = .next ((s.setScript rest).setTxReady true) := by
  cases ht : s.txReady with
  | false => exact step_enabled hs (by simp [eventEnabled, ht])
  | true =>
    rw [step_disabled hs (by simp [eventEnabled, ht]), exec_fgIdle]
    congr 1
    ext1 <;> simp [ht]

/-- From launch on a handler event is an invocation: with `irq = 0` too, since an invocation is then
harmless. -/
theorem step_handler {s : State} {rest : List Event} (hi : s.Inv) (hx : s.rxie = true)
    (hs : s.script = .handler :: rest) : step s = execOnInterrupt (s.setScript rest) := by
  cases hirq : s.irq with
  | true => exact step_handler_enabled hs hirq hx
  | false =>
    rw [step_disabled hs hirq]
    exact (spuriousInvocationIsHarmless (s.setScript rest) hi hx hirq).symm

/-- A byte has arrived, and `rest` is still to come. -/
def withArrival (b : Byte) (rest : List Event) (s : State) : State :=
  ((s.setScript rest).setRxData b).setRxReady true

theorem step_rxArrive {s : State} {b : Byte} {rest : List Event} (hr : s.rxReady = false)
    (hs : s.script = .rxArrive b :: rest) : step s = .next (withArrival b rest s) :=
  (step_arrival hs).trans (exec_envRxArrive_free b (u := s.setScript rest) hr)

/-! ### Rounds of `tx_done` and an invocation -/

/-- A launched state that meets the invariant and in which no byte waits. -/
structure Serviced (s : State) : Prop where
  inv : s.Inv
  rxie : s.rxie = true
  rxReady : s.rxReady = false

/-- An invocation serves the waiting byte. -/
theorem serviced_of_invocation {s t : State} (hi : s.Inv) (hx : s.rxie = true)
    (h : execOnInterrupt s = .next t) : Serviced t :=
  ⟨execOnInterrupt_inv hi hx h, (execOnInterrupt_rxie h).trans hx, execOnInterrupt_rxReady h⟩

/-- One round, from any launched state that meets the invariant, serves the byte that waits. -/
theorem round_serves {s : State} {rest : List Event} (hi : s.Inv) (hx : s.rxie = true)
    (hs : s.script = .txDone :: .handler :: rest) :
    ∃ t, runSteps 2 s = .next t ∧ Serviced t ∧ t.script = rest ∧
      execOnInterrupt ((s.setScript rest).setTxReady true) = .next t := by
  have hi' : ((s.setScript rest).setTxReady true).Inv := hi
  obtain ⟨t, ht⟩ := hi'.invocation_next
  have hstep := step_handler (s := (s.setScript (.handler :: rest)).setTxReady true) hi hx rfl
  refine ⟨t, ?_, serviced_of_invocation hi' hx ht, execOnInterrupt_script ht, ht⟩
  rw [runSteps_succ 1 (step_txDone hs), runSteps_succ 0 (hstep.trans ht)]
  rfl

/-- What a drain leaves alone: both buffers, the line and the length of the response. -/
def SameBuffers (s t : State) : Prop :=
  t.rxbuf = s.rxbuf ∧ t.idx = s.idx ∧ t.txbuf = s.txbuf ∧ t.txlen = s.txlen

/-- With no byte waiting, a ready transmitter sends one pending byte, if there is one. -/
theorem finishInvocation_drains {s t : State} (hr : s.txReady = true)
    (h : finishInvocation s = .next t) :
    SameBuffers s t ∧ t.txlen - t.txcur = s.txlen - s.txcur - 1 := by
  rcases finishInvocation_eq_next h with ⟨hg, rfl⟩ | ⟨_, _, _, b, _, rfl⟩
  · have hp : s.txlen ≤ s.txcur := by simpa [hr] using hg
    exact ⟨⟨rfl, rfl, rfl, rfl⟩, by simp only [State.setLoc_txlen, State.setLoc_txcur]; omega⟩
  · refine ⟨by simp [SameBuffers], ?_⟩
    simp only [State.setLoc_txlen, State.setLoc_txcur, txState_txlen, txState_txcur]
    omega

/-- One round with no byte waiting sends one pending byte, if there is one. -/
theorem round_drains {s : State} {rest : List Event} (hv : Serviced s)
    (hs : s.script = .txDone :: .handler :: rest) :
    ∃ t, runSteps 2 s = .next t ∧ Serviced t ∧ t.script = rest ∧ SameBuffers s t ∧
      t.emitted = s.emitted ∧ t.txlen - t.txcur = s.txlen - s.txcur - 1 := by
  obtain ⟨t, hrun, hvt, hscript, ht⟩ := round_serves hv.inv hv.rxie hs
  have hr : ((s.setScript rest).setTxReady true).rxReady = false := hv.rxReady
  rw [execOnInterrupt_of_no_byte hr] at ht
  obtain ⟨hsame, hleft⟩ := finishInvocation_drains rfl ht
  exact ⟨t, hrun, hvt, hscript, hsame,
    finishInvocation_emitted (u := (s.setScript rest).setTxReady true) ht, hleft⟩

/-- As many rounds as bytes are pending, or more, drain the response. -/
theorem rounds_drain (k : Nat) {s : State} {rest : List Event} (hv : Serviced s)
    (hk : s.txlen - s.txcur ≤ k) (hs : s.script = drainScript k ++ rest) :
    ∃ t, runSteps (2 * k) s = .next t ∧ Serviced t ∧ t.script = rest ∧ SameBuffers s t ∧
      t.txtrace = s.emitted ∧ t.txcur = t.txlen := by
  induction k generalizing s with
  | zero =>
    have hle := hv.inv.block.inv2.1
    refine ⟨s, rfl, hv, hs, ⟨rfl, rfl, rfl, rfl⟩, ?_, by omega⟩
    rw [State.emitted, State.pendingBytes_nil (by omega), List.append_nil]
  | succ k ih =>
    obtain ⟨u, hu, hvu, hscript, ⟨h1, h2, h3, h4⟩, hout, hleft⟩ := round_drains hv hs
    obtain ⟨t, ht, hvt, hrest, ⟨h1', h2', h3', h4'⟩, hout', hcur⟩ :=
      ih hvu (by omega) hscript
    refine ⟨t, ?_, hvt, hrest, ⟨h1'.trans h1, h2'.trans h2, h3'.trans h3, h4'.trans h4⟩,
      hout'.trans hout, hcur⟩
    rw [show 2 * (k + 1) = 2 + 2 * k by ring, runSteps_add, hu, andThen_next, ht]

/-- Drained, by INV3, is disabled. -/
theorem State.Inv.txie_of_drained {s : State} (hi : s.Inv) (h : s.txcur = s.txlen) :
    s.txie = false := by
  have hie := hi.block.inv3
  rw [State.inv3, h] at hie
  simpa using hie

theorem Serviced.restful {s : State} (hv : Serviced s) (h : s.txcur = s.txlen) :
    s.restful = true := by
  simp [State.restful, State.irq, hv.rxReady, hv.inv.txie_of_drained h, h]

/-- Settles O53: every round sends the next pending byte. -/
theorem drainSendsThePendingBytesInOrder : Obligations.DrainSendsThePendingBytesInOrder := by
  intro s rest hi hx hr
  refine ⟨State.pendingBytes_length hi.block.inv4 hi.block.inv2.1, ?_⟩
  have hv : Serviced (s.setScript (drainScript (s.txlen - s.txcur) ++ rest)) := ⟨hi, hx, hr⟩
  obtain ⟨t, ht, hvt, hrest, ⟨hrxbuf, hidx, htxbuf, hlen⟩, hout, hcur⟩ :=
    rounds_drain _ hv le_rfl rfl
  exact ⟨t, ht, hout, hcur, hlen, hvt.inv.txie_of_drained hcur, hidx, hrxbuf, htxbuf,
    hvt.rxReady, hrest⟩

/-- Settles O54: the first round serves the waiting byte, and three rounds drain any response. -/
theorem fourInvocationsReachRest : Obligations.FourInvocationsReachRest := by
  intro s hi hx
  obtain ⟨u, hu, hvu, hscript, _⟩ := round_serves (s := s.setScript (drainScript 4))
    (rest := drainScript 3) hi hx rfl
  have hlen : u.txlen ≤ Config.TXCAP := hvu.inv.block.inv2.2
  obtain ⟨t, ht, hvt, hrest, _, _, hcur⟩ := rounds_drain 3 (rest := []) hvu
    (Nat.le_trans (Nat.sub_le _ _) hlen) (by simpa using hscript)
  refine ⟨t, ?_, hvt.restful hcur, hvt.rxReady, hrest⟩
  rw [show 8 = 2 + 2 * 3 by rfl, runSteps_add, hu, andThen_next, ht]

/-! ### The paced run -/

/-- At rest with a ready transmitter: where each byte of a paced run finds the machine. -/
structure Ready (s : State) : Prop extends Serviced s where
  drained : s.txcur = s.txlen
  txReady : s.txReady = true

/-- The invocation that serves a byte with a ready transmitter leaves two bytes of the response at
most. -/
theorem served_leaves_two {s t : State} (hr : s.rxReady = true) (ht : s.txReady = true)
    (hd : s.txcur = s.txlen) (h : execOnInterrupt s = .next t) : t.txlen - t.txcur ≤ 2 := by
  rw [execOnInterrupt_of_byte hr] at h
  obtain ⟨_, hleft⟩ := finishInvocation_drains (by simpa using ht) h
  have hstaged : (rxState s).txlen - (rxState s).txcur ≤ 3 := by
    rcases rxState_staging s with ⟨_, _, hlen, hcur, _⟩ | ⟨_, _, hlen, hcur, _⟩
    · omega
    · rw [hlen, hcur]
      exact response_length _ _
  omega

/-- The arrival of a byte and its invocation: it is answered in full and edits the line. -/
theorem arrival_served {s : State} {b : Byte} {rest : List Event} (hv : Ready s)
    (hs : s.script = .rxArrive b :: .handler :: rest) :
    ∃ t, runSteps 2 s = .next t ∧ Serviced t ∧ t.script = rest ∧
      t.emitted = s.txtrace ++ response s.idx b ∧ t.idx = nextIdx s.idx b ∧
      t.line = editLine s.line b ∧ t.txlen - t.txcur ≤ 2 := by
  have hi : (withArrival b rest s).Inv := hv.inv
  have hd : Drained (withArrival b rest s) := fun _ _ => hv.drained
  have hout : s.emitted = s.txtrace := by
    rw [State.emitted, State.pendingBytes_nil hv.drained.ge, List.append_nil]
  have hstep : step (withArrival b (.handler :: rest) s) = execOnInterrupt (withArrival b rest s) :=
    step_handler (s := withArrival b (.handler :: rest) s) hv.inv hv.rxie rfl
  obtain ⟨t, ht⟩ := hi.invocation_next
  refine ⟨t, ?_, serviced_of_invocation hi hv.rxie ht, execOnInterrupt_script ht,
    ?_, execOnInterrupt_idx ht, execOnInterrupt_line hi.block rfl ht,
    served_leaves_two (s := withArrival b rest s) rfl hv.txReady hv.drained ht⟩
  · rw [runSteps_succ 1 (step_rxArrive hv.rxReady hs), runSteps_succ 0 (hstep.trans ht)]
    rfl
  · rw [← hout]
    exact execOnInterrupt_emitted_byte rfl hd ht

/-- The seven events of one byte: it is answered in full, edits the line, and leaves the machine
ready for the next. -/
theorem paced_byte {s : State} {b : Byte} {rest : List Event} (hv : Ready s)
    (hs : s.script = pacedScript [b] ++ rest) :
    ∃ t, runSteps 7 s = .next t ∧ Ready t ∧ t.script = rest ∧
      t.txtrace = s.txtrace ++ response s.idx b ∧ t.idx = nextIdx s.idx b ∧
      t.line = editLine s.line b := by
  obtain ⟨u, hu, hvu, hscript, hout, hidx, hline, hleft⟩ :=
    arrival_served (rest := drainScript 2 ++ .txDone :: rest) hv hs
  obtain ⟨w, hw, hvw, hscript', ⟨hrxbuf, hidx', _⟩, hout', hcur⟩ := rounds_drain 2 hvu hleft hscript
  have hline' : w.line = u.line := by rw [State.line, State.line, hrxbuf, hidx']
  refine ⟨(w.setScript rest).setTxReady true, ?_, ⟨⟨hvw.inv, hvw.rxie, hvw.rxReady⟩, hcur, rfl⟩,
    rfl, hout'.trans hout, hidx'.trans hidx, hline'.trans hline⟩
  rw [show 7 = 2 + (2 * 2 + 1) by rfl, runSteps_add, hu, andThen_next, runSteps_add, hw,
    andThen_next, runSteps_succ 0 (step_txDone hscript')]
  rfl

theorem pacedScript_cons (b : Byte) (bytes : List Byte) :
    pacedScript (b :: bytes) = pacedScript [b] ++ pacedScript bytes := by
  simp [pacedScript]

/-- A paced run over any bytes, from any state that is ready. -/
theorem paced_run (bytes : List Byte) {s : State} (hv : Ready s)
    (hs : s.script = pacedScript bytes) :
    ∃ t, runSteps (7 * bytes.length) s = .next t ∧ Ready t ∧ t.script = [] ∧
      t.txtrace = s.txtrace ++ responses s.idx bytes ∧ t.line = bytes.foldl editLine s.line := by
  induction bytes generalizing s with
  | nil => exact ⟨s, rfl, hv, hs, by simp [responses], rfl⟩
  | cons b bytes ih =>
    rw [pacedScript_cons] at hs
    obtain ⟨u, hu, hvu, hscript, hout, hidx, hline⟩ := paced_byte hv hs
    obtain ⟨t, ht, hvt, hrest, hout', hline'⟩ := ih hvu hscript
    refine ⟨t, ?_, hvt, hrest, ?_, ?_⟩
    · rw [show 7 * (b :: bytes).length = 7 + 7 * bytes.length by rw [List.length_cons]; ring,
        runSteps_add, hu, andThen_next, ht]
    · rw [hout', hout, hidx, responses, List.append_assoc]
    · rw [hline', hline, List.foldl_cons]

theorem launched_inv (es : List Event) : ((State.reset.setScript es).setRxie true).Inv :=
  (Effect.launch (State.atReset_reset es)).inv State.reset_inv

/-- The launched machine, once its transmitter is ready. -/
theorem launched_ready (es : List Event) :
    Ready (((State.reset.setScript es).setRxie true).setTxReady true) where
  inv := launched_inv es
  rxie := rfl
  rxReady := rfl
  drained := rfl
  txReady := rfl

/-- Settles O52: launch and `tx_done` make the machine ready, whatever `TX_READY_AT_LAUNCH`, and the
bytes follow by induction. -/
theorem pacedRunEchoesEveryByte : Obligations.PacedRunEchoesEveryByte := by
  intro bytes
  have hlaunch := step_launch (s := State.reset.setScript (.launch :: .txDone :: pacedScript bytes))
    rfl (State.atReset_reset _)
  have hdone := step_txDone
    (s := (State.reset.setScript (.txDone :: pacedScript bytes)).setRxie true) rfl
  obtain ⟨t, ht, hvt, hscript, hout, hline⟩ := paced_run bytes (launched_ready _) rfl
  refine ⟨t, ?_, hout, hline, hvt.restful hvt.drained, hvt.txReady, hscript⟩
  rw [show 2 + 7 * bytes.length = 7 * bytes.length + 1 + 1 by ring, runSteps_succ _ hlaunch]
  exact (runSteps_succ _ hdone).trans ht

end Sys2Proof.Machine
end

section
/-! PROOFS. Nothing reads the receive buffer (10_state.md R11): every operation does the same in a
state with another receive buffer, but for it. -/

namespace Sys2Proof.Machine

/-- The outcome with another receive buffer in its next state. -/
def withRxbuf (m : Memory) (o : Result) : Result := andThen o fun t => .next (t.setRxbuf m)

@[simp] theorem withoutRxbuf_withRxbuf (m : Memory) (o : Result) :
    withoutRxbuf (withRxbuf m o) = withoutRxbuf o := by
  cases o <;> rfl

theorem txReaction_setRxbuf (s : State) (m : Memory) :
    txReaction (s.setRxbuf m) = withRxbuf m (txReaction s) := by
  have hread : memRead .txbuf (s.setRxbuf m).txcur (s.setRxbuf m) = memRead .txbuf s.txcur s := rfl
  unfold txReaction withRxbuf execRiWriteTransmitByte execRiDisableTransmitInterrupt
  rw [hread]
  cases memRead .txbuf s.txcur s with
  | error r => rfl
  | ok b =>
    cases hr : s.txReady with
    | false => simp [hr]
    | true => by_cases h : s.txcur + 1 = s.txlen <;> simp [hr, h] <;> rfl

theorem finishInvocation_setRxbuf (s : State) (m : Memory) :
    finishInvocation (s.setRxbuf m) = withRxbuf m (finishInvocation s) := by
  have hguard : ((s.setRxbuf m).txReady && (s.setRxbuf m).pending) = (s.txReady && s.pending) := rfl
  unfold finishInvocation execTxDrain
  rw [hguard, txReaction_setRxbuf]
  split
  · cases txReaction s <;> rfl
  · rfl

/-- The RX reaction computes its new receive buffer from the old one, and nothing else. -/
theorem rxState_setRxbuf (s : State) (m : Memory) :
    rxState (s.setRxbuf m) = (rxState s).setRxbuf (nextRxbuf (s.setRxbuf m) s.rxData) := by
  unfold rxState stagedState
  dsimp only [State.setRxbuf_rxData, State.setRxbuf_idx]
  split <;> rfl

theorem execOnInterrupt_setRxbuf (s : State) (m : Memory) :
    withoutRxbuf (execOnInterrupt (s.setRxbuf m)) = withoutRxbuf (execOnInterrupt s) := by
  rw [execOnInterrupt_eq, execOnInterrupt_eq, State.setRxbuf_rxReady]
  split
  · rw [rxState_setRxbuf, finishInvocation_setRxbuf, withoutRxbuf_withRxbuf]
  · rw [finishInvocation_setRxbuf, withoutRxbuf_withRxbuf]

theorem dispatch_setRxbuf (s : State) (m : Memory) :
    withoutRxbuf (dispatch (s.setRxbuf m)) = withoutRxbuf (dispatch s) := by
  unfold dispatch
  rw [State.setRxbuf_rxie]
  split
  · exact execOnInterrupt_setRxbuf s m
  · rfl

theorem rxArriveWith_setRxbuf (p : RxOverrun) (b : Byte) (s : State) (m : Memory) :
    rxArriveWith p b (s.setRxbuf m) = withRxbuf m (rxArriveWith p b s) := by
  unfold rxArriveWith
  rw [State.setRxbuf_rxReady]
  split
  · cases p <;> rfl
  · rfl

theorem act_setRxbuf (e : Event) (s : State) (m : Memory) :
    withoutRxbuf (act e (s.setRxbuf m)) = withoutRxbuf (act e s) := by
  cases e with
  | handler => exact dispatch_setRxbuf s m
  | spurious => exact dispatch_setRxbuf s m
  | rxArrive b =>
    calc withoutRxbuf (act (.rxArrive b) (s.setRxbuf m))
        = withoutRxbuf (withRxbuf m (act (.rxArrive b) s)) :=
          congrArg withoutRxbuf (rxArriveWith_setRxbuf Config.rxOverrun b s m)
      _ = withoutRxbuf (act (.rxArrive b) s) := withoutRxbuf_withRxbuf m _
  | txDone | idle | reset | launch => rfl

/-- No enabling condition looks at the receive buffer. -/
theorem eventEnabled_setRxbuf (e : Event) (s : State) (m : Memory) :
    eventEnabled e (s.setRxbuf m) = eventEnabled e s := by
  cases e <;> rfl

theorem perform_setRxbuf (e : Event) (s : State) (m : Memory) :
    withoutRxbuf (perform e (s.setRxbuf m)) = withoutRxbuf (perform e s) := by
  rw [perform_eq, perform_eq, eventEnabled_setRxbuf]
  split
  · exact act_setRxbuf e s m
  · rfl

theorem nextEvent_setRxbuf (s : State) (m : Memory) :
    nextEvent (s.setRxbuf m) = ((nextEvent s).1, (nextEvent s).2.setRxbuf m) := by
  unfold nextEvent
  rw [State.setRxbuf_script]
  split <;> rfl

/-- Settles O49: the event drawn is the same, and so is what its agent does. -/
theorem nothingReadsTheReceiveBuffer : Obligations.NothingReadsTheReceiveBuffer := by
  intro s m
  rw [step, nextEvent_setRxbuf]
  exact perform_setRxbuf _ _ m

end Sys2Proof.Machine
end

section
/-! PROOFS. The decoder and the encoder (30_encoding.md sections 1, 2, 7 and 9). -/

namespace Sys2Proof

/-- A well-formed instruction of format `RXBYTE` is what its byte decodes to. -/
theorem decodeByte_of_encodeByte {i : Instr} {c : Byte} (hw : i.wellFormed = true)
    (hc : encodeByte i = some c) : decodeByte c = i := by
  cases i with
  | enter => cases hc; rfl
  | eraseBs => cases hc; rfl
  | eraseDel => cases hc; rfl
  | store b => cases hc; exact decodeByte_store hw
  | rxReact | txDrain | onInterrupt | stage | riReadStatus | riReadReceivedByte
  | riWriteTransmitByte | riEnableTransmitInterrupt | riDisableTransmitInterrupt | envRxArrive
  | envTxDone | fgIdle | reset => cases hc

theorem decodeStream_encodeStream {is : List Instr}
    (h : ∀ i ∈ is, i.wellFormed = true ∧ (encodeByte i).isSome = true) :
    decodeStream (encodeStream is) = is := by
  induction is with
  | nil => rfl
  | cons i is ih =>
    obtain ⟨hi, his⟩ := List.forall_mem_cons.mp h
    obtain ⟨c, hc⟩ := Option.isSome_iff_exists.mp hi.2
    have htail := ih his
    unfold decodeStream encodeStream at *
    rw [List.filterMap_cons, hc, List.map_cons, htail, decodeByte_of_encodeByte hi.1 hc]

theorem encodeStream_decodeStream (bytes : List Byte) :
    encodeStream (decodeStream bytes) = bytes := by
  simp [encodeStream, decodeStream, List.filterMap_map, encodeByte_decodeByte]

/-- Settles O4: both ways, byte by byte. -/
theorem byteStreamsRoundTrip : Obligations.ByteStreamsRoundTrip := by
  refine ⟨fun is => decodeStream_encodeStream, fun bytes =>
    ⟨encodeStream_decodeStream bytes, List.length_map .., fun i hi => ?_⟩⟩
  obtain ⟨c, _, rfl⟩ := List.mem_map.mp hi
  exact decodeByte_wellFormed c

/-- Settles O1: the decoder computes. -/
theorem writtenOutWordsDecode : Obligations.WrittenOutWordsDecode :=
  ⟨rfl, rfl, rfl, rfl, rfl, rfl, rfl, rfl, rfl, rfl, rfl, rfl⟩

/-- An instruction that has a byte is what that byte, and no other, decodes to. -/
theorem decodeByte_eq_iff {i : Instr} {b : Byte} (c : Byte) (hw : i.wellFormed = true)
    (hb : encodeByte i = some b) : decodeByte c = i ↔ c = b := by
  constructor
  · rintro rfl
    exact Option.some.inj ((encodeByte_decodeByte c).symm.trans hb)
  · rintro rfl
    exact decodeByte_of_encodeByte hw hb

theorem decodeByte_eq_enter_iff (c : Byte) : decodeByte c = .enter ↔ c = Config.CR :=
  decodeByte_eq_iff c rfl rfl

theorem decodeByte_eq_eraseBs_iff (c : Byte) : decodeByte c = .eraseBs ↔ c = Config.BS :=
  decodeByte_eq_iff c rfl rfl

theorem decodeByte_eq_eraseDel_iff (c : Byte) : decodeByte c = .eraseDel ↔ c = Config.DEL :=
  decodeByte_eq_iff c rfl rfl

/-- STORE of a byte is well-formed for the OTHER bytes alone. -/
theorem store_wellFormed_iff (c : Byte) :
    (Instr.store c).wellFormed = true ↔ classify c = .other := by
  rw [classify_eq_other_iff]
  simp [Instr.wellFormed, and_assoc]

theorem decodeByte_eq_store_iff (c : Byte) : decodeByte c = .store c ↔ classify c = .other := by
  rw [← store_wellFormed_iff]
  exact ⟨fun h => h ▸ decodeByte_wellFormed c, decodeByte_store⟩

/-- Settles O2: the classes and the decoder, row by row. -/
theorem everyByteHasItsClass : Obligations.EveryByteHasItsClass := fun c =>
  ⟨classify_eq_enter_iff c, classify_eq_erase_iff c, classify_eq_other_iff c,
    (decodeByte_eq_enter_iff c).trans (classify_eq_enter_iff c).symm,
    decodeByte_eq_eraseBs_iff c, decodeByte_eq_eraseDel_iff c, decodeByte_eq_store_iff c⟩

/-! ### The patterns of the opcode table -/

/-- A pattern that compares all eight bits selects one byte. -/
theorem selects_allBits (c v : Byte) : Pattern.selects ⟨0xFF#8, v⟩ c = true ↔ c = v := by
  have hmask : c &&& 0xFF#8 = c := BitVec.and_allOnes
  simp [Pattern.selects, hmask]

theorem enterPattern_selects_iff (c : Byte) :
    enterPattern.selects c = true ↔ c = Config.CR := selects_allBits c _

theorem eraseBsPattern_selects_iff (c : Byte) :
    eraseBsPattern.selects c = true ↔ c = Config.BS := selects_allBits c _

theorem eraseDelPattern_selects_iff (c : Byte) :
    eraseDelPattern.selects c = true ↔ c = Config.DEL := selects_allBits c _

/-- STORE's cover selects each OTHER byte once and no other byte: 256 cases, computed. -/
theorem storeCover_selects (c : Byte) :
    storeCover.countP (·.selects c) = if classify c = .other then 1 else 0 := by
  revert c
  decide

theorem storeCover_any_iff (c : Byte) :
    storeCover.any (·.selects c) = true ↔ classify c = .other := by
  have hcount := storeCover_selects c
  rw [List.any_eq_true, ← List.countP_pos_iff, hcount]
  split <;> simp_all

/-- One pattern of the table selects each byte. -/
theorem bytePatterns_selects (c : Byte) : bytePatterns.countP (·.selects c) = 1 := by
  simp only [bytePatterns, List.countP_cons, storeCover_selects, enterPattern_selects_iff,
    eraseBsPattern_selects_iff, eraseDelPattern_selects_iff]
  rcases decodeByte_cases c with ⟨rfl, _⟩ | ⟨rfl, _⟩ | ⟨rfl, _⟩ | ⟨hc, _⟩
  · rfl
  · rfl
  · rfl
  · obtain ⟨hcr, hbs, hdel⟩ := (classify_eq_other_iff c).mp hc
    simp [hc, hcr, hbs, hdel]

/-- Settles O3: the three one-byte rows compare all eight bits, and STORE's cover is the rest. -/
theorem opcodeTableNeedsNoRowPriority : Obligations.OpcodeTableNeedsNoRowPriority := fun c =>
  ⟨List.countP_eq_length_filter ▸ bytePatterns_selects c,
    (enterPattern_selects_iff c).trans (decodeByte_eq_enter_iff c).symm,
    (eraseBsPattern_selects_iff c).trans (decodeByte_eq_eraseBs_iff c).symm,
    (eraseDelPattern_selects_iff c).trans (decodeByte_eq_eraseDel_iff c).symm,
    (storeCover_any_iff c).trans (decodeByte_eq_store_iff c).symm⟩

end Sys2Proof
end

section
/-! PROOFS. The single operations: the RX arms, RXREACT and STAGE (40_rx_reaction.md), the Register
Interface and the environment (42_on_interrupt.md), reset (70_reset_and_hazards.md), and what each
leaves alone. -/

namespace Sys2Proof.Machine

/-! ### The RX arms -/

/-- Settles O5, arm by arm. -/
theorem responseSequences : Obligations.ResponseSequences :=
  ⟨rfl, rfl, fun _ => rfl, fun idx _ => response_enter idx, fun _ _ => response_erase,
    fun _ _ => response_other⟩

/-- Settles O6: ENTER moves `idx` and the transients, and no cell. -/
theorem enterEmptiesTheLine : Obligations.EnterEmptiesTheLine := by
  intro s
  have hexec : exec .enter s = .next (respond seqEnter (s.setIdx 0)) := execEnter_eq s
  exact ⟨_, hexec, by simp [seqEnter, SameUart, SameModel]⟩

/-- Settles O7: INV1 keeps the marker inside the receive buffer. -/
theorem enterWithNullMarkerWritesOneCell : Obligations.EnterWithNullMarkerWritesOneCell := by
  intro s hi
  have hlt : s.idx < Config.N := Nat.lt_of_le_of_lt hi (by decide)
  refine ⟨_, enterWith_true_eq hlt, ?_⟩
  simp +contextual [seqEnter, SameUart, SameModel, Memory.read_write_same, Memory.read_write_other]

/-- Both spellings of ERASE are one operation. -/
theorem exec_erase {i : Instr} (s : State) (h : i = .eraseBs ∨ i = .eraseDel) :
    exec i s = .next (if s.idx = 0 then s else respond seqErase (s.setIdx (s.idx - 1))) := by
  rw [← erase_eq]
  rcases h with rfl | rfl <;> rfl

/-- Settles O8: the two arms of the one operation. -/
theorem eraseShortensTheLineOrDoesNothing : Obligations.EraseShortensTheLineOrDoesNothing := by
  intro i s h
  rw [exec_erase s h]
  refine ⟨fun hidx => by rw [if_pos hidx], fun hidx => ?_⟩
  rw [if_neg hidx.ne']
  refine ⟨_, rfl, ?_⟩
  have hsucc : s.idx - 1 + 1 = s.idx := Nat.succ_pred_eq_of_pos hidx
  simp [hsucc, seqErase, SameUart, SameModel]

/-- The state STORE leaves while there is room (40_rx_reaction.md R63). -/
def storedState (c : Byte) (s : State) : State :=
  respond (seqEcho c) ((s.setRxbuf (s.rxbuf.write s.idx c)).setIdx (s.idx + 1))

theorem exec_store_room {c : Byte} {s : State} (h : s.idx < Config.N - 1) :
    exec (.store c) s = .next (storedState c s) :=
  (execStore_eq c s).trans (by rw [if_pos h]; rfl)

theorem exec_store_full {c : Byte} {s : State} (h : ¬ s.idx < Config.N - 1) :
    exec (.store c) s = .next s :=
  (execStore_eq c s).trans (by rw [if_neg h])

/-- As many STOREs as there is room for all complete, and `idx` counts them. -/
theorem runAll_stores (cs : List Byte) {s : State} (h : s.idx + cs.length ≤ Config.N - 1) :
    ∃ t, runAll (cs.map Instr.store) s = .next t ∧ t.idx = s.idx + cs.length := by
  induction cs generalizing s with
  | nil => exact ⟨s, rfl, rfl⟩
  | cons c cs ih =>
    rw [List.length_cons] at h
    have hidx : (storedState c s).idx = s.idx + 1 := rfl
    obtain ⟨t, ht, hcount⟩ := ih (s := storedState c s) (by omega)
    refine ⟨t, ?_, by rw [hcount, hidx, List.length_cons]; omega⟩
    rw [List.map_cons, runAll, exec_store_room (by omega), andThen_next, ht]

/-- Settles O9: both arms, and the run of STOREs by induction on it. -/
theorem storeAppendsOrDrops : Obligations.StoreAppendsOrDrops := by
  intro c s
  refine ⟨(decodeByte_eq_store_iff c).mpr, exec_store_full, fun h => ?_,
    fun cs => runAll_stores cs⟩
  refine ⟨_, exec_store_room h, rfl, h, ?_⟩
  simp +contextual [storedState, seqEcho, SameUart, SameModel, Memory.read_write_same,
    Memory.read_write_other]

/-! ### The RX reaction and STAGE -/

/-- Settles O13: the guard is RXREACT's own. -/
theorem noByteNoRxReaction : Obligations.NoByteNoRxReaction := by
  intro s h
  have hexec : exec .rxReact s = _ := execRxReact_eq s
  rw [hexec, if_neg (by simp [h])]

theorem rxState_staged_iff (s : State) :
    (rxState s).loc.staged = (response s.idx s.rxData != []) := by
  unfold rxState stagedState
  by_cases h : response s.idx s.rxData = [] <;> simp [h]

/-- Settles O12, with and without a byte. -/
theorem rxReactionFrame : Obligations.RxReactionFrame := by
  intro s
  cases hr : s.rxReady with
  | false => exact ⟨s, noByteNoRxReaction s hr, by simp [SameModel]⟩
  | true =>
    refine ⟨rxState s, exec_rxReact hr, ?_⟩
    simp [SameModel, rxState_staged_iff]

theorem exec_stage {seq : List Byte} (s : State) (h : (Instr.stage seq).wellFormed = true) :
    exec (.stage seq) s = .next (stagedState seq s) := by
  have hlen : 1 ≤ seq.length ∧ seq.length ≤ Config.TXCAP := by simpa [Instr.wellFormed] using h
  exact execStage_eq s hlen.2

theorem read_stagedState_txbuf (seq : List Byte) (s : State) (a : Nat) :
    (stagedState seq s).txbuf.read a = if a < seq.length then seq[a]? else s.txbuf.read a := by
  simp [stagedState, Memory.read_writeSeq]

/-- Settles O14: the closed form `stagedState`, field by field. -/
theorem stageCommitsTheResponse : Obligations.StageCommitsTheResponse := by
  intro seq s h
  refine ⟨_, exec_stage s h, rfl, rfl, rfl, fun a ha => ?_, fun a ha => ?_, ?_⟩
  · rw [read_stagedState_txbuf, if_pos ha]
  · rw [read_stagedState_txbuf, if_neg (not_lt.mpr ha)]
  · simp [stagedState, SameUart, SameModel]

/-- Settles O15: STAGE fills the cells from 0 on and points the cursor at cell 0. -/
theorem stageDiscardsWhatWasPending : Obligations.StageDiscardsWhatWasPending := by
  intro seq s h
  have hpend : (stagedState seq s).pendingBytes = seq := by
    refine State.pendingBytes_of_cells (s := stagedState seq s) rfl (Nat.zero_le _) fun i hi => ?_
    rw [read_stagedState_txbuf, if_pos hi]
  refine ⟨_, exec_stage s h, hpend, ?_⟩
  rw [State.emitted, hpend]
  rfl

/-! ### The Register Interface -/

/-- Settles O28: the read moves the one transient. -/
theorem readStatusReturnsThePair : Obligations.ReadStatusReturnsThePair := by
  intro s
  refine ⟨s.setLoc { s.loc with sample := s.status }, rfl, ?_⟩
  simp [State.status, SameBlock, SameUart, SameModel]

theorem exec_riReadReceivedByte {s : State} (h : s.rxReady = true) :
    exec .riReadReceivedByte s =
      .next ((s.setLoc { s.loc with c := s.rxData }).setRxReady false) := if_pos h

/-- Settles O29: the two arms of the guard. -/
theorem readReceivedByteClearsRxReady : Obligations.ReadReceivedByteClearsRxReady := by
  intro s
  refine ⟨fun h => if_neg (by simp [h]), fun h => ⟨_, exec_riReadReceivedByte h, ?_⟩⟩
  simp [SameBlock, SameModel]

theorem exec_riWriteTransmitByte (b : Byte) {s : State} (h : s.txReady = true) :
    exec (.riWriteTransmitByte b) s =
      .next ((s.setTxReady false).setTxtrace (s.txtrace ++ [b])) := if_pos h

/-- Settles O30: the two arms of the guard. -/
theorem writeTransmitByteSendsOnce : Obligations.WriteTransmitByteSendsOnce := by
  intro b s
  refine ⟨fun h => if_neg (by simp [h]), fun h => ⟨_, exec_riWriteTransmitByte b h, ?_⟩⟩
  simp [SameModel]

/-- Settles O31: each operation sets the one field, so that doing it again changes nothing. -/
theorem enableAndDisableToggleTxie : Obligations.EnableAndDisableToggleTxie := by
  intro s
  refine ⟨⟨s.setTxie true, rfl, rfl, rfl, ?_⟩, ⟨s.setTxie false, rfl, rfl, rfl, ?_⟩⟩
  · simp +contextual [State.irq, SameUart, SameModel]
  · simp [State.irq, SameUart, SameModel]

theorem State.irq_iff (s : State) :
    s.irq = true ↔ (s.rxReady = true ∧ s.rxie = true) ∨ (s.txReady = true ∧ s.txie = true) := by
  simp [State.irq]

/-- Settles O32: each clearing operation makes one flag or one enable of a source 0. -/
theorem sourcesPendAndClear : Obligations.SourcesPendAndClear := by
  intro s
  refine ⟨s.irq_iff, fun h => ?_, fun b h => ?_, ⟨s.setTxie false, rfl, ?_⟩,
    fun b hr hl hc hb => ?_, fun hr _ hie => ?_⟩
  · exact ⟨_, exec_riReadReceivedByte h, by simp [State.irq]⟩
  · exact ⟨_, exec_riWriteTransmitByte b h, rfl, by simp [State.irq], _, rfl, rfl⟩
  · simp [State.irq]
  · exact ⟨txState b s, execTxDrain_send hr (by omega) hc hb, by
      simp [State.irq, (txState_txie b s).1 hl]⟩
  · simp [State.irq, hr, hie]

/-! ### The environment and reset -/

/-- Settles O33: the arm of an arrival with no unread byte. -/
theorem arrivalDeliversTheByte : Obligations.ArrivalDeliversTheByte := by
  intro b s h
  exact ⟨_, exec_envRxArrive_free b h, by simp [SameBlock, SameModel]⟩

/-- Settles O34: whatever the policy, an arrival over an unread byte moves the data and the draws
alone. -/
theorem overrunKeepsExactlyOneByte : Obligations.OverrunKeepsExactlyOneByte := by
  intro b s h
  refine ⟨?_, by simp [rxArriveWith, h], by simp [rxArriveWith, h]⟩
  have hexec : exec (.envRxArrive b) s = rxArriveWith Config.rxOverrun b s := rfl
  rw [hexec]
  rcases rxArriveWith_cases Config.rxOverrun b s with ⟨hf, _⟩ | ⟨_, e | e | ⟨d, hd, e⟩⟩
  · simp [h] at hf
  · exact ⟨_, e, h, .inl rfl, by simp [SameBlock]⟩
  · exact ⟨_, e, h, .inr rfl, by simp [SameBlock]⟩
  · exact ⟨_, e, h, hd, by simp [SameBlock]⟩

/-- Settles O35: the flag is the one field moved. -/
theorem txDoneReassertsTxReady : Obligations.TxDoneReassertsTxReady := by
  intro s
  exact ⟨by simp [eventEnabled], s.setTxReady true, rfl, by simp [SameBlock, SameModel]⟩

/-- Settles O37: the answer is the reset state with the script and the draws kept. -/
theorem resetLeavesTheResetValues : Obligations.ResetLeavesTheResetValues := by
  intro s
  refine ⟨(State.reset.setScript s.script).setDraws s.draws, rfl, ?_⟩
  simp [SameModel]

end Sys2Proof.Machine
end

section
/-! PROOFS. The step: which agent moves at which event (00_scope.md R8), launch, and a placed word
(log entries 1 and 2). -/

namespace Sys2Proof.Machine

/-- Settles O40, agent by agent. -/
theorem stepMovesTheScriptsAgent : Obligations.StepMovesTheScriptsAgent := by
  intro s rest
  refine ⟨step_handler_enabled, step_disabled, fun h hx => ?_, step_disabled, fun b => step_arrival,
    fun h ht => ?_, fun h ht => ?_, fun h => step_enabled h rfl, fun h => step_enabled h rfl,
    step_launch, fun h hr => step_launch_idle h hr⟩
  · exact (step_enabled h hx).trans (dispatch_launched hx)
  · exact step_enabled h (by simp [eventEnabled, ht])
  · exact step_disabled h (by simp [eventEnabled, ht])

/-- Settles O43: the handler is enabled, and the dispatcher refuses. -/
theorem serviceBeforeInitialisationIsRefused :
    Obligations.ServiceBeforeInitialisationIsRefused := by
  intro s rest h hirq hx
  exact (step_enabled h hirq).trans (if_neg (by simp [hx]))

/-- Settles O41: the invocation is READ_STATUS, RXREACT, TXDRAIN, and RXREACT is the three
operations on the byte. -/
theorem stepRunsTheWaitingByte : Obligations.StepRunsTheWaitingByte := by
  intro s rest h hr hx
  have hirq : s.irq = true := by simp [State.irq, hr, hx]
  rw [step_handler_enabled h hirq hx, exec_onInterrupt_andThen]
  refine andThen_congr fun s1 hs1 => ?_
  have hr1 : s1.rxReady = true := by cases hs1; exact hr
  have hdata1 : s1.rxData = s.rxData := by cases hs1; rfl
  rw [if_pos (show (s.setScript rest).rxReady = true from hr), exec_rxReact_eq_andThen hr1,
    andThen_assoc]
  refine andThen_congr fun s2 hs2 => ?_
  have hc : s2.loc.c = s.rxData := by
    rw [exec_riReadReceivedByte hr1] at hs2
    cases hs2
    exact hdata1
  rw [hc, andThen_assoc]
  refine andThen_congr fun s3 _ => andThen_congr fun s4 _ => ?_
  rw [txDrain_guarded]
  rfl

/-- Settles O39: the launch state differs from the reset state in `rxie` alone. -/
theorem launchFromResetIsQuiescent : Obligations.LaunchFromResetIsQuiescent := by
  intro rest
  have hirq : ((State.reset.setScript rest).setRxie true).irq = false := by simp [State.irq]
  have hlaunch : eventEnabled .launch ((State.reset.setScript rest).setRxie true) = false := by
    simp [eventEnabled, State.readyToLaunch]
  exact ⟨_, step_launch rfl (State.atReset_reset _), rfl, hirq, launched_inv rest, hirq, hlaunch,
    rfl, rfl, fun b => by simp [eventEnabled], rfl, by simp [eventEnabled]⟩

/-! ### A placed word -/

/-- Both bits of a status pair are in its word. -/
theorem word_of_bits : ∀ w : StatusWord, Status.word ⟨w.getLsbD 1, w.getLsbD 0⟩ = w := by decide

theorem withPending_txie (s : State) : s.withPending.txie = true := by
  unfold State.withPending
  split <;> rfl

/-- A placed byte requests an interrupt. -/
theorem withByte_irq (s : State) (c : Byte) : (s.withByte c).irq = true := rfl

/-- So does a placed pair that selects a reaction: by its receive bit, or, for the pair `01`, by the
byte that is then pending. -/
theorem withStatus_irq (s : State) {w : StatusWord} (hw : w ≠ 0b00#2) :
    (s.withStatus w).irq = true := by
  cases hb : w.getLsbD 1 with
  | true => simp [State.withStatus, State.irq, hb]
  | false =>
    have hone : ∀ v : StatusWord, v ≠ 0b00#2 → v.getLsbD 1 = false → v = 0b01#2 := by decide
    have hw1 := hone w hw hb
    subst hw1
    simp [State.withStatus, State.irq, withPending_txie]

/-- A word of two bits decodes to the first reaction its pair selects. -/
theorem decodeTableWord_status : ∀ w < 4,
    decodeTableWord 2 w = (decodeStatus (BitVec.ofNat 2 w)).head? := by decide

theorem ofNat_status_ne_zero : ∀ w < 4, 1 ≤ w → BitVec.ofNat 2 w ≠ 0b00#2 := by decide

/-- Settles O42: placing a word puts the handler's event first, and the placed byte or pair requests
it. -/
theorem placedWordIsRunNext : Obligations.PlacedWordIsRunNext := by
  refine ⟨fun s w hw => ⟨?_, rfl, rfl, ?_⟩, fun s w h1 h4 => ⟨?_, ?_, ?_⟩⟩
  · simp [decodeTableWord, hw]
  · exact step_handler_enabled rfl (withByte_irq s _) rfl
  · exact decodeTableWord_status w h4
  · exact word_of_bits (BitVec.ofNat 2 w)
  · exact step_handler_enabled rfl (withStatus_irq s (ofNat_status_ne_zero w h4 h1)) rfl

end Sys2Proof.Machine
end
